-- ==== Sys2Proof/Word.lean ====
section
/-! DEFINITION. The word types of the machine, rules R7 and R91 (00_scope.md, 30_encoding.md). -/

namespace Sys2Proof

/-- A memory cell, a `V` register, a timer or an immediate `kk`: 8 bits (R21, R28, R30, R91). -/
abbrev Byte := BitVec 8

/-- An instruction word, `pc`, `I` or a stack entry: 16 bits (R23, R24, R27, R90). -/
abbrev Word := BitVec 16

/-- The instruction field `nnn`: a 12-bit byte address (R91). -/
abbrev Address := BitVec 12

/-- A 4-bit field: the opcode family, a sub-opcode, the sprite height `n`, a key index (R91, R34). -/
abbrev Nibble := BitVec 4

/-- A register index, the fields `x` and `y`: every value of the 4 bits names a register (R21). -/
abbrev Reg := BitVec 4

/-- Register 15, which doubles as the flag register (R22). -/
abbrev VF : Reg := 0xF#4

end Sys2Proof
end

