-- ==== Sys2Proof/Machine/Flags.lean ====
section
/-! DEFINITION. Every flag computation: the values that go to `V[F]`, R22 and R142 (42_alu.md). -/

namespace Sys2Proof.Machine

/-- A flag is exactly 0 or 1 (R22). -/
def flagByte (b : Bool) : Byte := if b then 1 else 0

/-- Carry of `8xy4`: 1 when the exact sum exceeds 255 (R136). -/
def carryFlag (a b : Byte) : Byte := flagByte (decide (a.toNat + b.toNat > 255))

/-- No borrow of `minuend - subtrahend`: 1 when the minuend is greater or equal (R137, R139, R142). -/
def noBorrowFlag (minuend subtrahend : Byte) : Byte := flagByte (decide (minuend.toNat ≥ subtrahend.toNat))

/-- The bit `8xy6` shifts out: bit 0 before the shift (R138). -/
def shiftRightFlag (a : Byte) : Byte := a &&& 1

/-- The bit `8xyE` shifts out: bit 7 before the shift (R140). -/
def shiftLeftFlag (a : Byte) : Byte := (a >>> 7) &&& 1

/-- The collision flag of `Dxyn` (R161). -/
def collisionFlag (collision : Bool) : Byte := flagByte collision

end Sys2Proof.Machine
end

