-- ==== Sys2Proof/Syntax.lean ====
section
/-! DEFINITION. The 34 instructions, one constructor per row of opcode_table.json, in the order of R94
(30_encoding.md).  The operand types carry every bound of R91: no field value is out of range. -/

namespace Sys2Proof

/-- An instruction with its extracted fields (R94, R97). -/
inductive Instr where
  /-- `00E0` CLS (R160) -/
  | cls
  /-- `00EE` RET (R114) -/
  | ret
  /-- `1nnn` JP nnn (R111) -/
  | jp (nnn : Address)
  /-- `2nnn` CALL nnn (R112) -/
  | call (nnn : Address)
  /-- `3xkk` SE Vx, kk (R121) -/
  | seImm (x : Reg) (kk : Byte)
  /-- `4xkk` SNE Vx, kk (R122) -/
  | sneImm (x : Reg) (kk : Byte)
  /-- `5xy0` SE Vx, Vy (R123) -/
  | seReg (x y : Reg)
  /-- `6xkk` LD Vx, kk (R130) -/
  | ldImm (x : Reg) (kk : Byte)
  /-- `7xkk` ADD Vx, kk (R131) -/
  | addImm (x : Reg) (kk : Byte)
  /-- `8xy0` LD Vx, Vy (R132) -/
  | ldReg (x y : Reg)
  /-- `8xy1` OR Vx, Vy (R133) -/
  | orReg (x y : Reg)
  /-- `8xy2` AND Vx, Vy (R134) -/
  | andReg (x y : Reg)
  /-- `8xy3` XOR Vx, Vy (R135) -/
  | xorReg (x y : Reg)
  /-- `8xy4` ADD Vx, Vy (R136) -/
  | addReg (x y : Reg)
  /-- `8xy5` SUB Vx, Vy (R137) -/
  | subReg (x y : Reg)
  /-- `8xy6` SHR Vx: `y` is decoded and ignored (R138, R98) -/
  | shr (x y : Reg)
  /-- `8xy7` SUBN Vx, Vy (R139) -/
  | subnReg (x y : Reg)
  /-- `8xyE` SHL Vx: `y` is decoded and ignored (R140, R98) -/
  | shl (x y : Reg)
  /-- `9xy0` SNE Vx, Vy (R124) -/
  | sneReg (x y : Reg)
  /-- `Annn` LD I, nnn (R150) -/
  | ldI (nnn : Address)
  /-- `Bnnn` JP V0, nnn (R113) -/
  | jpV0 (nnn : Address)
  /-- `Cxkk` RND Vx, kk (R141) -/
  | rnd (x : Reg) (kk : Byte)
  /-- `Dxyn` DRW Vx, Vy, n (R161) -/
  | drw (x y : Reg) (n : Nibble)
  /-- `Ex9E` SKP Vx (R173) -/
  | skp (x : Reg)
  /-- `ExA1` SKNP Vx (R174) -/
  | sknp (x : Reg)
  /-- `Fx07` LD Vx, DT (R170) -/
  | ldVxDt (x : Reg)
  /-- `Fx0A` LD Vx, K (R175) -/
  | ldVxK (x : Reg)
  /-- `Fx15` LD DT, Vx (R171) -/
  | ldDtVx (x : Reg)
  /-- `Fx18` LD ST, Vx (R172) -/
  | ldStVx (x : Reg)
  /-- `Fx1E` ADD I, Vx (R151) -/
  | addI (x : Reg)
  /-- `Fx29` LD F, Vx (R152) -/
  | ldF (x : Reg)
  /-- `Fx33` LD B, Vx (R153) -/
  | ldB (x : Reg)
  /-- `Fx55` LD [I], Vx (R154) -/
  | stRegs (x : Reg)
  /-- `Fx65` LD Vx, [I] (R155) -/
  | ldRegs (x : Reg)
deriving DecidableEq, Repr

/-- One host strobe: the input ports of R39 (10_state.md), the six kinds of step of R11 (00_scope.md). -/
inductive Strobe where
  /-- `step`: one `EXEC` cycle (R90). -/
  | exec
  /-- `tick`: the 60 Hz timer step (R194). -/
  | tick
  /-- `key(k, pressed)`: a key event, its index 4 bits wide (R195, R34). -/
  | key (k : Nibble) (pressed : Bool)
  /-- `flush`: the display read-out (R196). -/
  | flush
  /-- `load(bytes)`: the program load (R74). -/
  | load (bytes : List Byte)
  /-- `reset` (R210). -/
  | reset
deriving DecidableEq, Repr

end Sys2Proof
end

