-- ==== Sys2Proof/Config.lean ====
section
/-! DEFINITION. What this hardware fixes and what the spec leaves open: the parameters of R6 (00_scope.md). -/

namespace Sys2Proof.Config

/-- `MEM_SIZE`: addresses 0x000 to 0xFFF (R6, R60). -/
abbrev memSize : Nat := 0x1000

/-- `PROG_BASE`: the first byte of the program region, and the reset value of `pc` (R6, R24). -/
abbrev progBase : Nat := 0x200

/-- `PROG_MAX_LEN`: the longest program image, 0xFFF - 0x200 + 1 bytes (R6, R74). -/
abbrev progMaxLen : Nat := 3584

/-- `FONT_LEN`: 16 glyphs of 5 bytes from address 0 (R6, R33). -/
abbrev fontLen : Nat := 80

/-- `FONT`, OPEN: the byte at address `a < 0x50` after reset (R6, R33, decision D14).
A free value: the spec prints no byte of the table, so no proof can see one (log entry 3). -/
opaque font : Nat → Byte

/-- The customary font of R33's table, glyphs 0 to 7.  PRESUMED by the spec itself ("from general knowledge"). -/
def customaryFontLow : List Byte :=
  [0xF0, 0x90, 0x90, 0x90, 0xF0,  0x20, 0x60, 0x20, 0x20, 0x70,
   0xF0, 0x10, 0xF0, 0x80, 0xF0,  0xF0, 0x10, 0xF0, 0x10, 0xF0,
   0x90, 0x90, 0xF0, 0x10, 0x10,  0xF0, 0x80, 0xF0, 0x10, 0xF0,
   0xF0, 0x80, 0xF0, 0x90, 0xF0,  0xF0, 0x10, 0x20, 0x40, 0x40]

/-- The customary font of R33's table, glyphs 8 to F. -/
def customaryFontHigh : List Byte :=
  [0xF0, 0x90, 0xF0, 0x90, 0xF0,  0xF0, 0x90, 0xF0, 0x10, 0xF0,
   0xF0, 0x90, 0xF0, 0x90, 0x90,  0xE0, 0x90, 0xE0, 0x90, 0xE0,
   0xF0, 0x80, 0x80, 0x80, 0xF0,  0xE0, 0x90, 0x90, 0x90, 0xE0,
   0xF0, 0x80, 0xF0, 0x80, 0xF0,  0xF0, 0x80, 0xF0, 0x80, 0x80]

/-- The default of the parameter `FONT` (R33): 80 bytes, one per sprite row. -/
def customaryFont : List Byte := customaryFontLow ++ customaryFontHigh

/-- The hypothesis a claim about glyph pixels must name (N4, G1): `FONT` is the customary table.  The
model never uses it. -/
def FontIsCustomary : Prop := ∀ k, (h : k < customaryFont.length) → font k = customaryFont[k]

/-- `RND`, OPEN: the byte of the `k`-th sample of the `rnd` port (R6, R198, decision D12).
A free value: any of 0 to 255, with no relation between samples (log entry 2). -/
opaque rnd : Nat → Byte

/-- What `Ex9E` and `ExA1` do for a key index above 15: the parameter `KEY_INDEX_MODE` (R6, decision D6). -/
inductive KeyIndexMode where
  /-- Raise `KeyIndexOutOfRange`: this hardware (R176). -/
  | fault
  /-- Use the low four bits: the alternative D6 lets a model carry. -/
  | mask4
deriving DecidableEq, Repr

/-- `KEY_INDEX_MODE` of this hardware (R6; log entry 5). -/
def keyIndexMode : KeyIndexMode := .fault

/-- `DFC_WIDTH`, OPEN: the width in bits of the decode-fault counter, or `none` for an unbounded natural number
(R6, R38, decision D9).  A parameter without a value here: no proof can see it, so a claim holds for the unbounded
counter and for every width (log entry 4). -/
opaque dfcWidth : Option Nat

/-- The hypothesis a claim must name to rest on the unbounded counter that R6 and D9 recommend.  The model never
uses it. -/
def DfcIsUnbounded : Prop := dfcWidth = none

end Sys2Proof.Config
end

