-- ==== Sys2Proof/Machine/State.lean ====
section
/-! DEFINITION. The state of the machine, R20 (10_state.md), and its reset value, R40. -/

namespace Sys2Proof.Machine

/-- The causes of a fatal fault (R180, 60_exceptions.md; their codes are in Machine/Ports.lean). -/
inductive FatalCause where
  /-- `pc + 1 > 0xFFF` at a fetch (R182). -/
  | fetchOutOfBounds
  /-- A call with `SP = 15` (R183). -/
  | stackOverflow
  /-- A return with `SP = 0` (R184). -/
  | stackUnderflow
  /-- A data access whose highest address exceeds 0xFFF (R185). -/
  | memoryOutOfBounds
  /-- A key index above 15 (R186). -/
  | keyIndexOutOfRange
deriving DecidableEq, Repr

/-- The record of a fatal fault, R37: `(cause, info, at)`. -/
structure FaultRecord where
  /-- What happened. -/
  cause : FatalCause
  /-- The value R180 records for the cause. -/
  info : Nat
  /-- The `pc` of the faulting instruction (`at` in the spec). -/
  atPc : Word
deriving DecidableEq, Repr

/-- The await-key mode, R36. -/
inductive Await where
  /-- Not waiting. -/
  | none
  /-- Waiting for a key-down transition, whose key index register `x` will receive. -/
  | waiting (x : Reg)
deriving DecidableEq, Repr

/-- `MEM` as (address, byte) pairs in the canonical form `Memory.wf` of Machine/Ops.lean. -/
abbrev Memory := List Host.Cell

/-- `DISP`: 32 rows of 64 pixels, true = set (R31). -/
abbrev Display := Vector (Vector Bool 64) 32

/-- The complete state, R20, and three fields of the model's own at the end. -/
structure State where
  /-- `V[0..15]` (R21, R22). -/
  v : Vector Byte 16
  /-- `I` (R23). -/
  i : Word
  /-- `pc` (R24). -/
  pc : Word
  /-- `SP`, the index of the most recently pushed entry, 0 = empty (R26). -/
  sp : Byte
  /-- `STACK[0..15]`, entry 0 never used (R27). -/
  stack : Vector Word 16
  /-- `DT`, the delay timer (R28). -/
  dt : Byte
  /-- `ST`, the sound timer (R29). -/
  st : Byte
  /-- `MEM` (R30). -/
  mem : Memory
  /-- `DISP` (R31). -/
  disp : Display
  /-- `dirty` (R32). -/
  dirty : Bool
  /-- `KEYS[0..15]`, true = pressed (R34). -/
  keys : Vector Bool 16
  /-- `AWAIT` (R36). -/
  await : Await
  /-- `FAULT` (R37). -/
  fault : Option FaultRecord
  /-- `DFC`, the decode-fault counter (R38). -/
  dfc : Nat
  /-- MODEL'S OWN: how many random bytes have been sampled; the next sample is `Config.rnd rndCount`
  (R198; log entry 2). -/
  rndCount : Nat
  /-- MODEL'S OWN: the host's coming strobes, the next one first; when it is empty the host strobes `step`
  (R12, R13; log entry 1). -/
  schedule : List Strobe
  /-- MODEL'S OWN: a `LOAD` may still come: no `EXEC` cycle and no `LOAD` since the last `RESET` (R74,
  decision D16; log entry 6). -/
  loadOpen : Bool
deriving DecidableEq, Repr

/-- Why the machine stops with no next state.  The spec's own fatal faults are NOT here: their entry is a
next state with `FAULT` set (R189). -/
inductive Fault where
  /-- Raised by `00EE` alone, with `SP` above 15: the stack has no such entry (R26, R27).  No run reaches it
  (R42 (b)).  Safe: the model stops where the spec gives nothing (log entry 9). -/
  | stackPointerOutOfRange
deriving DecidableEq, Repr

/-- Why the model has no meaning for a step. -/
inductive Refusal where
  /-- Raised by `exec` for an instruction without a meaning; no arm does.  Safe. -/
  | notModelled (mnemonic : String)
  /-- Raised by the `LOAD` strobe for an image of more than 3584 bytes: `RomTooLargeError`, after which the
  host never starts the Executor (R74, R187, U10).  Safe (log entry 7). -/
  | romTooLarge
  /-- Raised by the `LOAD` strobe at any time but once after `RESET` and before the first `EXEC`: outside the
  spec, "a model refuses it" (R74, U11, decision D16).  Safe (log entry 6). -/
  | loadNotPermitted
deriving DecidableEq, Repr

/-- What a meaning or a strobe answers. -/
abbrev Outcome := Host.Outcome State Fault Refusal

/-- The machine right after `RESET`, R40: memory lists nothing, so it reads as the font and zeros. -/
def State.reset : State :=
  { v := Vector.replicate 16 0
    i := 0
    pc := 0x200
    sp := 0
    stack := Vector.replicate 16 0
    dt := 0
    st := 0
    mem := []
    disp := Vector.replicate 32 (Vector.replicate 64 false)
    dirty := false
    keys := Vector.replicate 16 false
    await := .none
    fault := Option.none
    dfc := 0
    rndCount := 0
    schedule := []
    loadOpen := true }

end Sys2Proof.Machine
end

