-- ==== Sys2Proof/Machine/Ops.lean ====
section
/-! DEFINITION. The named operations over the state: field updates, registers, memory, the stack, taking a
fatal fault and leaving it. -/

namespace Sys2Proof.Machine

/-! ### Field updates -/

/-- `pc <- w`. -/
def State.setPc (s : State) (w : Word) : State := { s with pc := w }

/-- `I <- w` (R23). -/
def State.setI (s : State) (w : Word) : State := { s with i := w }

/-- `DT <- b` (R28). -/
def State.setDt (s : State) (b : Byte) : State := { s with dt := b }

/-- `ST <- b` (R29). -/
def State.setSt (s : State) (b : Byte) : State := { s with st := b }

/-- `MEM` replaced. -/
def State.setMem (s : State) (m : Memory) : State := { s with mem := m }

/-- `DISP` and `dirty` replaced. -/
def State.setDisp (s : State) (d : Display) (dirty : Bool) : State := { s with disp := d, dirty := dirty }

/-- `KEYS[k] <- pressed` (R34). -/
def State.setKey (s : State) (k : Nibble) (pressed : Bool) : State :=
  { s with keys := s.keys.set k.toNat pressed k.isLt }

/-- `AWAIT <- a` (R36). -/
def State.setAwait (s : State) (a : Await) : State := { s with await := a }

/-- One random byte has been sampled (R198). -/
def State.countSample (s : State) : State := { s with rndCount := s.rndCount + 1 }

/-- The `LOAD` window is closed (decision D16). -/
def State.closeLoad (s : State) : State := { s with loadOpen := false }

/-- The remaining schedule of host strobes. -/
def State.setSchedule (s : State) (l : List Strobe) : State := { s with schedule := l }

/-! ### General registers (R21) -/

/-- `V[x]`. -/
def State.readV (s : State) (x : Reg) : Byte := s.v[x.toNat]'(x.isLt)

/-- `V[x] <- b`. -/
def State.setV (s : State) (x : Reg) (b : Byte) : State := { s with v := s.v.set x.toNat b x.isLt }

/-- `V[k] <- b0; V[k+1] <- b1; ...`, one register per byte of the list. -/
def State.setVFrom (k : Nat) : List Byte → State → State
  | [], s => s
  | b :: bs, s => State.setVFrom (k + 1) bs (s.setV (BitVec.ofNat 4 k) b)

/-- `KEYS[k]`. -/
def State.readKey (s : State) (k : Nibble) : Bool := s.keys[k.toNat]'(k.isLt)

/-! ### The advance of `pc` (R25) -/

/-- The generic advance, `pc <- pc + 2` (R25 (e)). -/
def State.advance (s : State) : State := s.setPc (s.pc + 2)

/-- A skip: `pc <- pc + 4` when the condition holds, else `pc <- pc + 2` (R25 (b), R120, decision D2). -/
def State.skipIf (s : State) (condition : Bool) : State :=
  s.setPc (if condition then s.pc + 4 else s.pc + 2)

/-! ### Memory (R60 to R64) -/

/-- What an address no entry lists reads as: the reset contents, `FONT` below 0x50 and 0 above (R30, R40). -/
def Memory.unlisted (a : Nat) : Byte := if a < Config.fontLen then Config.font a else 0

/-- `MEM[a]`: the listed byte, or the reset contents (R70). -/
def Memory.read : Memory → Nat → Byte
  | [], a => Memory.unlisted a
  | c :: m, a => if c.1 = a then c.2 else Memory.read m a

/-- Puts an entry in its place by address. -/
def Memory.insertCell (a : Nat) (b : Byte) : Memory → Memory
  | [] => [(a, b)]
  | c :: m => if c.1 < a then c :: Memory.insertCell a b m else (a, b) :: c :: m

/-- Takes the entries of an address out. -/
def Memory.eraseCell (a : Nat) (m : Memory) : Memory := m.filter fun c => c.1 != a

/-- `MEM[a] <- b`, keeping the canonical form: writing the reset contents removes the entry. -/
def Memory.write (m : Memory) (a : Nat) (b : Byte) : Memory :=
  if b = Memory.unlisted a then Memory.eraseCell a m else Memory.insertCell a b (Memory.eraseCell a m)

/-- Addresses strictly rising from `lo`, inside the address space, no entry equal to the reset contents. -/
def Memory.wfFrom : Nat → Memory → Bool
  | _, [] => true
  | lo, c :: m =>
    decide (lo ≤ c.1) && decide (c.1 < Config.memSize) && decide (c.2 ≠ Memory.unlisted c.1)
      && Memory.wfFrom (c.1 + 1) m

/-- The canonical form of a memory: equal memories are equal lists. -/
def Memory.wf (m : Memory) : Bool := Memory.wfFrom 0 m

/-- The `n` bytes at `addr .. addr+n-1`, first address first. -/
def Memory.readBytes (m : Memory) (addr n : Nat) : List Byte :=
  (List.range n).map fun k => Memory.read m (addr + k)

/-- `MEM[addr+k] <- bk` for each byte of the list. -/
def Memory.writeBytes (m : Memory) (addr : Nat) : List Byte → Memory
  | [] => m
  | b :: bs => Memory.writeBytes (Memory.write m addr b) (addr + 1) bs

/-! ### Faults: raising, taking, leaving -/

/-- What `raise <Fault>(info)` carries out of an instruction (R8). -/
structure Trap where
  /-- The cause. -/
  cause : FatalCause
  /-- The recorded value. -/
  info : Nat
deriving DecidableEq, Repr

/-- Fault entry, R189: `FAULT <- (cause, info, pc)` and nothing else; the faults are precise (R188), so the
state given here is the one before the faulting step. -/
def State.takeFault (s : State) (t : Trap) : State := { s with fault := some ⟨t.cause, t.info, s.pc⟩ }

/-- The end of an instruction: the state it computed, or the fault it raised, taken from the state before it
(R188). -/
def settle (s : State) : Except Trap State → Outcome
  | .ok t => .next t
  | .error e => .next (s.takeFault e)

/-- `RESET`, R210: every piece of state at its reset value; it is the only way out of a fatal fault (R191).
The model's own schedule and sample count go on: they are inputs, not state of the block. -/
def State.doReset (s : State) : State :=
  { State.reset with schedule := s.schedule, rndCount := s.rndCount }

/-- The next value of the decode-fault counter of a given width: one more, or, where a finite width has no room for
that, the same (R38; decision D9 and U16: "with a finite width saturate"). -/
def dfcIncrement : Option Nat → Nat → Nat
  | none, n => n + 1
  | some width, n => if n + 1 < 2 ^ width then n + 1 else n

/-- The non-fatal `DecodeFault`, R181: `DFC <- DFC + 1; pc <- pc + 2`, the counter under the open parameter
`DFC_WIDTH`. -/
def State.decodeFault (s : State) : State :=
  { s with dfc := dfcIncrement Config.dfcWidth s.dfc, pc := s.pc + 2 }

/-! ### Checked memory access (R62, R63) -/

/-- `MemRead(addr, n)`, R62: the whole range is checked first. -/
def State.memRead (s : State) (addr n : Nat) : Except Trap (List Byte) :=
  if n ≠ 0 ∧ addr + n - 1 > 0xFFF then .error ⟨.memoryOutOfBounds, addr + n - 1⟩
  else .ok (Memory.readBytes s.mem addr n)

/-- `MemWrite(addr, n, bytes)`, R62: the whole range is checked before the first byte moves. -/
def State.memWrite (s : State) (addr : Nat) (bytes : List Byte) : Except Trap State :=
  if bytes.length ≠ 0 ∧ addr + bytes.length - 1 > 0xFFF then
    .error ⟨.memoryOutOfBounds, addr + bytes.length - 1⟩
  else .ok (s.setMem (Memory.writeBytes s.mem addr bytes))

/-- The word at `pc`, big-endian (R63, R68). -/
def State.wordAtPc (s : State) : Word :=
  wordOfBytes (Memory.read s.mem s.pc.toNat) (Memory.read s.mem (s.pc.toNat + 1))

/-- The instruction fetch, R63: it fails with `FetchOutOfBounds` when `pc + 1 > 0xFFF`. -/
def State.fetch (s : State) : Except Trap Word :=
  if s.pc.toNat + 1 > 0xFFF then .error ⟨.fetchOutOfBounds, s.pc.toNat⟩ else .ok s.wordAtPc

/-! ### The stack (R26, R27) -/

/-- `SP <- SP + 1; STACK[SP] <- ret`, or `StackOverflow` when `SP` is 15 (R112, R183). -/
def State.push (s : State) (ret : Word) : Except Trap State :=
  if h : s.sp.toNat < 15 then
    .ok { s with sp := s.sp + 1, stack := s.stack.set (s.sp.toNat + 1) ret (by omega) }
  else .error ⟨.stackOverflow, s.sp.toNat⟩

/-- `STACK[SP]`; no entry when `SP` is above 15. -/
def State.stackTop (s : State) : Option Word := s.stack[s.sp.toNat]?

/-- `SP <- SP - 1`. -/
def State.dropTop (s : State) : State := { s with sp := s.sp - 1 }

end Sys2Proof.Machine
end

