-- ==== Sys2Proof/Machine/Operands.lean ====
section
/-! DEFINITION. Every operand form, R67 (20_memory.md), R93 (30_encoding.md), R156 (43_index_and_memory.md) and
R176 (45_timers_and_keys.md), and the exact 8-bit results of R142 (42_alu.md).  The plain register operands
`V[x]`, `V[y]` are `State.readV`; an immediate `kk` is used as it stands. -/

namespace Sys2Proof.Machine

/-- The absolute byte address `nnn`, zero-extended to 16 bits, not scaled (R93). -/
def absolute (nnn : Address) : Word := nnn.setWidth 16

/-- The indexed jump target `nnn + V[0]`, a 16-bit sum that cannot overflow (R113, decision D30). -/
def State.indexedTarget (s : State) (nnn : Address) : Word := nnn.setWidth 16 + (s.readV 0).setWidth 16

/-- The base of a data access: the natural number `I` (R67, R156). -/
def State.dataBase (s : State) : Nat := s.i.toNat

/-- The bytes `Fx55` stores: `V[0], V[1], ..., V[x]` (R154). -/
def State.regsUpTo (s : State) (x : Reg) : List Byte :=
  (List.range (x.toNat + 1)).map fun k => s.readV (BitVec.ofNat 4 k)

/-- The bytes `Fx33` stores: hundreds, tens, ones (R153). -/
def decimalDigits (a : Byte) : List Byte :=
  [BitVec.ofNat 8 (a.toNat / 100), BitVec.ofNat 8 (a.toNat / 10 % 10), BitVec.ofNat 8 (a.toNat % 10)]

/-- The glyph address `V[x] * 5`, the whole byte multiplied (R152, decision D27). -/
def glyphAddress (a : Byte) : Word := BitVec.ofNat 16 (a.toNat * 5)

/-- `(I + V[x]) mod 4096`, the one wrap of an address (R151, R221). -/
def indexSum (i : Word) (a : Byte) : Word := BitVec.ofNat 16 ((i.toNat + a.toNat) % 4096)

/-- The key index check, R176, under the parameter `KEY_INDEX_MODE` (decision D6). -/
def keyIndex : Config.KeyIndexMode → Byte → Except Trap Nibble
  | .fault, a => if a.toNat > 15 then .error ⟨.keyIndexOutOfRange, a.toNat⟩ else .ok (a.setWidth 4)
  | .mask4, a => .ok (a.setWidth 4)

/-! ### Exact results reduced mod 256 (R142) -/

/-- `(a + b) mod 256`. -/
def sum8 (a b : Byte) : Byte := BitVec.ofNat 8 ((a.toNat + b.toNat) % 256)

/-- `(minuend - subtrahend) mod 256`. -/
def difference8 (minuend subtrahend : Byte) : Byte :=
  BitVec.ofNat 8 (if minuend.toNat ≥ subtrahend.toNat then minuend.toNat - subtrahend.toNat
    else minuend.toNat + 256 - subtrahend.toNat)

/-- `a >> 1`, bit 7 of the result 0 (R138). -/
def shiftRight8 (a : Byte) : Byte := a >>> 1

/-- `(a << 1) mod 256`, bit 0 of the result 0 (R140). -/
def shiftLeft8 (a : Byte) : Byte := a <<< 1

/-- The end of the five flag-writing ALU instructions: the operands are latched by the caller, `V[F]` is
written first and `V[x]` second, so for `x = F` the result stays (R9, R143, decision D3). -/
def State.flagThenResult (s : State) (x : Reg) (flag result : Byte) : State :=
  ((s.setV VF flag).setV x result).advance

end Sys2Proof.Machine
end

