-- ==== Sys2Proof/Machine/Alu.lean ====
section
/-! DEFINITION. Register load and ALU: `6xkk`, `7xkk`, `8xy0` to `8xy7`, `8xyE`, `Cxkk` (42_alu.md). -/

namespace Sys2Proof.Machine

/-- `6xkk`, R130: `V[x] <- kk`. -/
def execLdImm (x : Reg) (kk : Byte) (s : State) : Outcome := .next (s.setV x kk).advance

/-- `7xkk`, R131: `V[x] <- (V[x] + kk) mod 256`, no carry out. -/
def execAddImm (x : Reg) (kk : Byte) (s : State) : Outcome := .next (s.setV x (sum8 (s.readV x) kk)).advance

/-- `8xy0`, R132: `V[x] <- V[y]`. -/
def execLdReg (x y : Reg) (s : State) : Outcome := .next (s.setV x (s.readV y)).advance

/-- `8xy1`, R133: bitwise or, `V[F]` unchanged (decision D26). -/
def execOrReg (x y : Reg) (s : State) : Outcome := .next (s.setV x (s.readV x ||| s.readV y)).advance

/-- `8xy2`, R134: bitwise and. -/
def execAndReg (x y : Reg) (s : State) : Outcome := .next (s.setV x (s.readV x &&& s.readV y)).advance

/-- `8xy3`, R135: bitwise exclusive or. -/
def execXorReg (x y : Reg) (s : State) : Outcome := .next (s.setV x (s.readV x ^^^ s.readV y)).advance

/-- `8xy4`, R136: add, `V[F]` = carry. -/
def execAddReg (x y : Reg) (s : State) : Outcome :=
  .next (s.flagThenResult x (carryFlag (s.readV x) (s.readV y)) (sum8 (s.readV x) (s.readV y)))

/-- `8xy5`, R137: `V[x] - V[y]`, `V[F]` = no borrow. -/
def execSubReg (x y : Reg) (s : State) : Outcome :=
  .next (s.flagThenResult x (noBorrowFlag (s.readV x) (s.readV y)) (difference8 (s.readV x) (s.readV y)))

/-- `8xy6`, R138: shift `V[x]` right by one, `V[F]` = the bit out; the field `y` plays no part (R98). -/
def execShr (x _y : Reg) (s : State) : Outcome :=
  .next (s.flagThenResult x (shiftRightFlag (s.readV x)) (shiftRight8 (s.readV x)))

/-- `8xy7`, R139: `V[y] - V[x]` to `V[x]`, `V[F]` = no borrow. -/
def execSubnReg (x y : Reg) (s : State) : Outcome :=
  .next (s.flagThenResult x (noBorrowFlag (s.readV y) (s.readV x)) (difference8 (s.readV y) (s.readV x)))

/-- `8xyE`, R140: shift `V[x]` left by one, `V[F]` = the bit out; the field `y` plays no part (R98). -/
def execShl (x _y : Reg) (s : State) : Outcome :=
  .next (s.flagThenResult x (shiftLeftFlag (s.readV x)) (shiftLeft8 (s.readV x)))

/-- `Cxkk`, R141: `V[x] <- rnd() AND kk`, one sample of the free value (R198). -/
def execRnd (x : Reg) (kk : Byte) (s : State) : Outcome :=
  .next (s.setV x (Config.rnd s.rndCount &&& kk)).countSample.advance

end Sys2Proof.Machine
end

