-- ==== Sys2Proof/Machine/Control.lean ====
section
/-! DEFINITION. Control transfer: `1nnn`, `2nnn`, `Bnnn`, `00EE` (40_control_transfer.md). -/

namespace Sys2Proof.Machine

/-- `1nnn`, R111: `pc <- nnn`. -/
def execJp (nnn : Address) (s : State) : Outcome := .next (s.setPc (absolute nnn))

/-- `2nnn`, R112: push `pc + 2` (decision D1), `pc <- nnn`; `StackOverflow` when `SP` is 15. -/
def execCall (nnn : Address) (s : State) : Outcome :=
  settle s ((s.push (s.pc + 2)).map fun t => t.setPc (absolute nnn))

/-- `Bnnn`, R113: `pc <- nnn + V[0]`. -/
def execJpV0 (nnn : Address) (s : State) : Outcome := .next (s.setPc (s.indexedTarget nnn))

/-- `00EE`, R114: `pc <- STACK[SP]; SP <- SP - 1`; `StackUnderflow` when `SP` is 0. -/
def execRet (s : State) : Outcome :=
  if s.sp = 0 then settle s (.error ⟨.stackUnderflow, 0⟩)
  else match s.stackTop with
    | some ret => .next (s.dropTop.setPc ret)
    | none => .fault .stackPointerOutOfRange

end Sys2Proof.Machine
end

