-- ==== Sys2Proof/Machine/Display.lean ====
section
/-! DEFINITION. Display: `00E0`, `Dxyn` (44_display.md). -/

namespace Sys2Proof.Machine

/-- `DISP[r][c]` (R31). -/
def pixel (d : Display) (r : Fin 32) (c : Fin 64) : Bool := d[r][c]

/-- `DISP[r][c] <- b`. -/
def setPixel (d : Display) (r : Fin 32) (c : Fin 64) (b : Bool) : Display :=
  d.set r.val (d[r].set c.val b c.isLt) r.isLt

/-- All pixels false (R160). -/
def blankDisplay : Display := Vector.replicate 32 (Vector.replicate 64 false)

/-- What `draw_sprite` carries along: the display and its two Booleans (R162). -/
structure Draw where
  /-- The display so far. -/
  disp : Display
  /-- A pixel that was set has been turned off. -/
  collision : Bool
  /-- Some pixel has been toggled. -/
  toggled : Bool
deriving DecidableEq, Repr

/-- One sprite bit that is 1: record a collision if the pixel was set, then XOR it (R162). -/
def Draw.plot (d : Draw) (r : Fin 32) (c : Fin 64) : Draw :=
  { disp := setPixel d.disp r c (!pixel d.disp r c)
    collision := d.collision || pixel d.disp r c
    toggled := true }

/-- One sprite row: bit `7 - j` of the byte is column `j`; both coordinates wrap (R162). -/
def Draw.row (x0 r : Nat) (byte : Byte) (d : Draw) : Draw :=
  (List.range 8).foldl
    (fun d j => if byte.getLsbD (7 - j) then d.plot (Fin.ofNat 32 r) (Fin.ofNat 64 (x0 + j)) else d) d

/-- The sprite rows from row `y` on (R162). -/
def Draw.rows (x0 : Nat) : Nat → List Byte → Draw → Draw
  | _, [], d => d
  | y, byte :: bytes, d => Draw.rows x0 (y + 1) bytes (Draw.row x0 y byte d)

/-- `draw_sprite(x0, y0, rows)`, R162. -/
def drawSprite (x0 y0 : Nat) (bytes : List Byte) (disp : Display) : Draw :=
  Draw.rows x0 y0 bytes { disp := disp, collision := false, toggled := false }

/-- `00E0`, R160: all pixels false, `dirty <- true`. -/
def execCls (s : State) : Outcome := .next (s.setDisp blankDisplay true).advance

/-- The state `Dxyn` leaves once its sprite bytes are read: the operands are those of `s` (R161). -/
def State.drawn (s : State) (x y : Reg) (bytes : List Byte) : State :=
  let d := drawSprite (s.readV x).toNat (s.readV y).toNat bytes s.disp
  ((s.setDisp d.disp (s.dirty || d.toggled)).setV VF (collisionFlag d.collision)).advance

/-- `Dxyn`, R161: draw the `n` bytes at `I`, `V[F]` = collision. -/
def execDrw (x y : Reg) (n : Nibble) (s : State) : Outcome :=
  settle s ((s.memRead s.dataBase n.toNat).map fun bytes => s.drawn x y bytes)

end Sys2Proof.Machine
end

