-- ==== Sys2Proof/Machine/IndexMemory.lean ====
section
/-! DEFINITION. Index register and memory: `Annn`, `Fx1E`, `Fx29`, `Fx33`, `Fx55`, `Fx65`
(43_index_and_memory.md).  No load or store changes `I` (R156). -/

namespace Sys2Proof.Machine

/-- `Annn`, R150: `I <- nnn`. -/
def execLdI (nnn : Address) (s : State) : Outcome := .next (s.setI (absolute nnn)).advance

/-- `Fx1E`, R151: `I <- (I + V[x]) mod 4096`, no flag. -/
def execAddI (x : Reg) (s : State) : Outcome := .next (s.setI (indexSum s.i (s.readV x))).advance

/-- `Fx29`, R152: `I <- V[x] * 5`. -/
def execLdF (x : Reg) (s : State) : Outcome := .next (s.setI (glyphAddress (s.readV x))).advance

/-- `Fx33`, R153: the three decimal digits of `V[x]` to `MEM[I .. I+2]`. -/
def execLdB (x : Reg) (s : State) : Outcome :=
  settle s ((s.memWrite s.dataBase (decimalDigits (s.readV x))).map fun t => t.advance)

/-- `Fx55`, R154: `V[0] .. V[x]` to `MEM[I .. I+x]`. -/
def execStRegs (x : Reg) (s : State) : Outcome :=
  settle s ((s.memWrite s.dataBase (s.regsUpTo x)).map fun t => t.advance)

/-- `Fx65`, R155: `MEM[I .. I+x]` to `V[0] .. V[x]`. -/
def execLdRegs (x : Reg) (s : State) : Outcome :=
  settle s ((s.memRead s.dataBase (x.toNat + 1)).map fun bytes => (State.setVFrom 0 bytes s).advance)

end Sys2Proof.Machine
end

