-- ==== Sys2Proof/Machine/Skips.lean ====
section
/-! DEFINITION. The register-compare skips: `3xkk`, `4xkk`, `5xy0`, `9xy0` (41_skips.md). -/

namespace Sys2Proof.Machine

/-- `3xkk`, R121: skip if `V[x] = kk`. -/
def execSeImm (x : Reg) (kk : Byte) (s : State) : Outcome := .next (s.skipIf (decide (s.readV x = kk)))

/-- `4xkk`, R122: skip if `V[x] != kk`. -/
def execSneImm (x : Reg) (kk : Byte) (s : State) : Outcome := .next (s.skipIf (decide (s.readV x ≠ kk)))

/-- `5xy0`, R123: skip if `V[x] = V[y]`. -/
def execSeReg (x y : Reg) (s : State) : Outcome := .next (s.skipIf (decide (s.readV x = s.readV y)))

/-- `9xy0`, R124: skip if `V[x] != V[y]`. -/
def execSneReg (x y : Reg) (s : State) : Outcome := .next (s.skipIf (decide (s.readV x ≠ s.readV y)))

end Sys2Proof.Machine
end

