-- ==== Sys2Proof/Machine/TimersKeys.lean ====
section
/-! DEFINITION. Timers and keys: `Fx07`, `Fx15`, `Fx18`, `Ex9E`, `ExA1`, `Fx0A` (45_timers_and_keys.md). -/

namespace Sys2Proof.Machine

/-- `Fx07`, R170: `V[x] <- DT`. -/
def execLdVxDt (x : Reg) (s : State) : Outcome := .next (s.setV x s.dt).advance

/-- `Fx15`, R171: `DT <- V[x]`. -/
def execLdDtVx (x : Reg) (s : State) : Outcome := .next (s.setDt (s.readV x)).advance

/-- `Fx18`, R172: `ST <- V[x]`. -/
def execLdStVx (x : Reg) (s : State) : Outcome := .next (s.setSt (s.readV x)).advance

/-- The key skips: skip when the key `V[x]` names is in the wanted state, under a `KEY_INDEX_MODE`
(R173, R174, R176). -/
def State.skipOnKey (s : State) (mode : Config.KeyIndexMode) (pressed : Bool) (x : Reg) : Outcome :=
  settle s ((keyIndex mode (s.readV x)).map fun k => s.skipIf (s.readKey k == pressed))

/-- `Ex9E`, R173: skip if the key is pressed. -/
def execSkp (x : Reg) (s : State) : Outcome := s.skipOnKey Config.keyIndexMode true x

/-- `ExA1`, R174: skip if the key is not pressed. -/
def execSknp (x : Reg) (s : State) : Outcome := s.skipOnKey Config.keyIndexMode false x

/-- `Fx0A`, R175, the `EXEC` half: `AWAIT <- waiting(x)`, `pc` not advanced.  The other half is the `KEY` step
of Machine/HostSteps.lean (R195, decision D7). -/
def execLdVxK (x : Reg) (s : State) : Outcome := .next (s.setAwait (.waiting x))

end Sys2Proof.Machine
end

