-- ==== Sys2Proof/WellFormed.lean ====
section
/-! DEFINITION. Well-formedness of what the host hands to the block.

An `Instr` needs no check: its operand types are exactly the field widths of R91, every field value names a
register, an immediate, a count or an address (R21, R93), and no matched word has another bit (R98), so
every term of the type is an instruction of the table.  What can be ill formed is the host's side: a program
image (R74, R187) and a schedule of strobes (R213). -/

namespace Sys2Proof

/-- A program image `LOAD` accepts: at most 3584 bytes, odd and empty lengths included (R74, R187). -/
def imageWellFormed (bytes : List Byte) : Bool := decide (bytes.length ≤ Config.progMaxLen)

/-- A schedule the host may issue (R213 (b), decision D16): each `LOAD` brings a well-formed image, at most
once, after a `RESET` and before the first `EXEC`.  `loadOpen` says whether a `LOAD` may still come. -/
def scheduleWellFormed : Bool → List Strobe → Bool
  | _, [] => true
  | loadOpen, .load bytes :: rest => loadOpen && imageWellFormed bytes && scheduleWellFormed false rest
  | _, .exec :: rest => scheduleWellFormed false rest
  | _, .reset :: rest => scheduleWellFormed true rest
  | loadOpen, .tick :: rest => scheduleWellFormed loadOpen rest
  | loadOpen, .key _ _ :: rest => scheduleWellFormed loadOpen rest
  | loadOpen, .flush :: rest => scheduleWellFormed loadOpen rest

end Sys2Proof
end

