-- ==== Sys2Proof/Machine/HostSteps.lean ====
section
/-! DEFINITION. The host's steps `TICK`, `KEY`, `FLUSH`, `LOAD` (R194 to R196 of 60_exceptions.md, R74 of
20_memory.md).  `RESET` is `State.doReset` of Machine/Ops.lean. -/

namespace Sys2Proof.Machine

/-- One 8-bit counter at a `TICK`: down by 1, and 0 stays 0 (R194). -/
def countDown (b : Byte) : Byte := if b = 0 then b else b - 1

/-- `TICK`, R194. -/
def State.tick (s : State) : State := (s.setDt (countDown s.dt)).setSt (countDown s.st)

/-- The second half of `Fx0A`, R175: `V[x] <- k; AWAIT <- none; pc <- pc + 2`. -/
def State.completeAwait (s : State) (x : Reg) (k : Nibble) : State :=
  ((s.setV x (k.setWidth 8)).setAwait .none).advance

/-- `KEY(k, pressed)`, R195: set the level; a key-down transition ends an await. -/
def State.keyEvent (s : State) (k : Nibble) (pressed : Bool) : State :=
  match s.await, pressed, s.readKey k with
  | .waiting x, true, false => (s.setKey k pressed).completeAwait x k
  | _, _, _ => s.setKey k pressed

/-- `FLUSH`, R196: `dirty <- false`; what the host copies is `flushedFrame` of Machine/Ports.lean. -/
def State.flush (s : State) : State := s.setDisp s.disp false

/-- `LOAD(bytes)`, R74: the image to 0x200 and up, once, after `RESET` and before the first `EXEC`. -/
def State.loadImage (s : State) (bytes : List Byte) : Outcome :=
  if s.loadOpen = false then .refused .loadNotPermitted
  else if imageWellFormed bytes = false then .refused .romTooLarge
  else .next (s.setMem (Memory.writeBytes s.mem Config.progBase bytes)).closeLoad

end Sys2Proof.Machine
end

