-- ==== Sys2Proof/Machine/Cycle.lean ====
section
/-! DEFINITION. The `EXEC` cycle, R90 (30_encoding.md), and one strobe of any kind, R11 (00_scope.md). -/

namespace Sys2Proof.Machine

/-- Decode and execute a fetched word, steps 5 to 7 of R90. -/
def State.execWord (s : State) (w : Word) : Outcome :=
  match decodeWord w with
  | .ok i => exec i s
  | .error _ => .next s.decodeFault

/-- Fetch, decode, execute, steps 3 to 7 of R90. -/
def State.runCycle (s : State) : Outcome :=
  match s.fetch with
  | .ok w => s.execWord w
  | .error t => .next (s.takeFault t)

/-- One `EXEC` step, R90, in the priority order of R190: halted, waiting, then the cycle.  The cycle closes the
`LOAD` window (decision D16). -/
def State.execCycle (s : State) : Outcome :=
  match s.fault, s.await with
  | some _, _ => .next s
  | none, .waiting _ => .next s
  | none, .none => s.closeLoad.runCycle

/-- One strobe of any kind (R11). -/
def State.strobe (s : State) : Strobe → Outcome
  | .exec => s.execCycle
  | .tick => .next s.tick
  | .key k pressed => .next (s.keyEvent k pressed)
  | .flush => .next s.flush
  | .load bytes => s.loadImage bytes
  | .reset => .next s.doReset

/-- The strobe the host issues next: the head of its schedule, or `step` when the schedule is empty
(log entry 1). -/
def State.nextStrobe (s : State) : Strobe := s.schedule.head?.getD .exec

end Sys2Proof.Machine
end

