-- ==== Sys2Proof/Machine/Step.lean ====
section
/-! DEFINITION. One step of the machine: one atomic host strobe (R11, R12, 00_scope.md). -/

namespace Sys2Proof.Machine

/-- The host's next strobe is taken from the schedule and served. -/
def step (s : State) : Host.Outcome State Fault Refusal :=
  (s.setSchedule s.schedule.tail).strobe s.nextStrobe

/-- Where `withFetchWord` puts an instruction: `pc`, or 0x200 when nothing can be fetched at `pc` (R63). -/
def State.fetchPlace (s : State) : Word := if s.pc.toNat + 1 > 0xFFF then 0x200 else s.pc

/-- `s` with a table word stored where `step` fetches next, and with what keeps `step` from fetching (a
schedule, an await, a latched fault, a `pc` out of bounds) out of the way. -/
def State.withFetchWord (s : State) (nbits w : Nat) : State :=
  { s with
    mem := Memory.writeBytes s.mem s.fetchPlace.toNat (bytesOfWord (BitVec.ofNat 16 (w % 2 ^ nbits)))
    pc := s.fetchPlace
    await := .none
    fault := none
    schedule := [] }

end Sys2Proof.Machine
end

