-- ==== Sys2Proof/Machine/Ports.lean ====
section
/-! DEFINITION. The output ports of R39 (10_state.md), functions of the state, and the fault codes of R180
(60_exceptions.md). -/

namespace Sys2Proof.Machine

/-- The outcome of a step strobe, R202. -/
inductive StepOutcome where
  /-- An instruction was fetched and executed (for `Fx0A`: its first half). -/
  | ok
  /-- `AWAIT` was not `none`; nothing changed. -/
  | waiting
  /-- The word was unrecognised. -/
  | decodeFault (w : Word)
  /-- A fatal fault was raised by this step. -/
  | fatal (cause : FatalCause) (info : Nat)
  /-- `FAULT` was already set; nothing changed. -/
  | halted (cause : FatalCause)
deriving DecidableEq, Repr

/-- The codes of R180 (decision D10). -/
def FatalCause.code : FatalCause → Nat
  | .fetchOutOfBounds => 2
  | .stackOverflow => 3
  | .stackUnderflow => 4
  | .memoryOutOfBounds => 5
  | .keyIndexOutOfRange => 6

/-- The code of an outcome, R180; the table gives none to `Halted`. -/
def StepOutcome.code : StepOutcome → Option Nat
  | .ok => some 0
  | .waiting => some 0
  | .decodeFault _ => some 1
  | .fatal cause _ => some cause.code
  | .halted _ => none

/-- What a completed instruction reports: `Fatal` when it latched a fault, else `Ok`. -/
def reportOf : Outcome → Option StepOutcome
  | .next t =>
    match t.fault with
    | some f => some (.fatal f.cause f.info)
    | none => some .ok
  | .fault _ => none
  | .refused _ => none

/-- The `outcome` port: what a `step` strobe in this state reports (R90, R202); none only where the model
itself stops. -/
def State.outcome (s : State) : Option StepOutcome :=
  match s.fault, s.await with
  | some f, _ => some (.halted f.cause)
  | none, .waiting _ => some .waiting
  | none, .none =>
    match s.fetch with
    | .error t => some (.fatal t.cause t.info)
    | .ok w =>
      match decodeWord w with
      | .error _ => some (.decodeFault w)
      | .ok i => reportOf (exec i s.closeLoad)

/-- The `disp` port: 2048 bits, row after row (R39, R196, decision D15). -/
def State.dispPort (s : State) : List Bool := s.disp.toList.flatMap Vector.toList

/-- What the host copies at a `FLUSH`: the frame when `dirty` was set, else nothing (R196). -/
def State.flushedFrame (s : State) : Option (List Bool) := if s.dirty then some s.dispPort else none

/-- The `tone` port: `ST > 0` (R197). -/
def State.tone (s : State) : Bool := decide (s.st.toNat > 0)

/-- The `awaiting` port: `AWAIT != none` (R39). -/
def State.awaiting (s : State) : Bool := decide (s.await ≠ .none)

/-- The `halted` port: `FAULT != none` (R39). -/
def State.halted (s : State) : Bool := s.fault.isSome

end Sys2Proof.Machine
end

