-- ==== Sys2Proof/Safety.lean ====
section
/-! DEFINITION. The terms claims use: what an instruction may change (the "w" entries of R43), which fault it raises
(R180), where it leaves `pc` (R25), the invariants of R42 (10_state.md), reachability, safe and finished runs. -/

namespace Sys2Proof.Machine

/-! ### Frames -/

/-- The pieces of state an instruction may write beside `pc`. -/
structure Touch where
  /-- General registers. -/
  v : List Reg := []
  /-- `I`. -/
  i : Bool := false
  /-- `SP`. -/
  sp : Bool := false
  /-- Stack entries. -/
  stack : List Nat := []
  /-- Memory addresses. -/
  mem : List Nat := []
  /-- `DISP`. -/
  disp : Bool := false
  /-- `dirty`. -/
  dirty : Bool := false
  /-- `DT`. -/
  dt : Bool := false
  /-- `ST`. -/
  st : Bool := false
  /-- `AWAIT`. -/
  await : Bool := false
  /-- The sample count of the random byte. -/
  rnd : Bool := false

/-- Everything a `Touch` does not name is unchanged, `pc` aside; `KEYS`, `FAULT`, `DFC` and the model's own
`schedule` and `loadOpen` always are. -/
structure Frame (w : Touch) (s t : State) : Prop where
  /-- Every other general register. -/
  v : ∀ k, k ∉ w.v → t.readV k = s.readV k
  /-- `I`. -/
  i : w.i = false → t.i = s.i
  /-- `SP`. -/
  sp : w.sp = false → t.sp = s.sp
  /-- Every other stack entry. -/
  stack : ∀ k (h : k < 16), k ∉ w.stack → t.stack[k] = s.stack[k]
  /-- Every other byte of memory. -/
  mem : ∀ a, a ∉ w.mem → Memory.read t.mem a = Memory.read s.mem a
  /-- `DISP`. -/
  disp : w.disp = false → t.disp = s.disp
  /-- `dirty`. -/
  dirty : w.dirty = false → t.dirty = s.dirty
  /-- `DT`. -/
  dt : w.dt = false → t.dt = s.dt
  /-- `ST`. -/
  st : w.st = false → t.st = s.st
  /-- `AWAIT`. -/
  await : w.await = false → t.await = s.await
  /-- The sample count. -/
  rnd : w.rnd = false → t.rndCount = s.rndCount
  /-- `KEYS`. -/
  keys : t.keys = s.keys
  /-- `FAULT`. -/
  fault : t.fault = s.fault
  /-- `DFC`. -/
  dfc : t.dfc = s.dfc
  /-- The host's schedule. -/
  schedule : t.schedule = s.schedule
  /-- The `LOAD` window. -/
  loadOpen : t.loadOpen = s.loadOpen

/-- The registers `V[0] .. V[x]`. -/
def regsFromZero (x : Reg) : List Reg := (List.range (x.toNat + 1)).map (BitVec.ofNat 4)

/-- The addresses `a .. a+n-1`. -/
def addressRange (a n : Nat) : List Nat := (List.range n).map (a + ·)

/-- The "w" entries of an instruction's row of R43; `Fx0A` writes `V[x]` only by the later `KEY` step. -/
def touches (s : State) : Instr → Touch
  | .cls => { disp := true, dirty := true }
  | .ret => { sp := true }
  | .jp _ => {}
  | .call _ => { sp := true, stack := [s.sp.toNat + 1] }
  | .seImm _ _ => {}
  | .sneImm _ _ => {}
  | .seReg _ _ => {}
  | .ldImm x _ => { v := [x] }
  | .addImm x _ => { v := [x] }
  | .ldReg x _ => { v := [x] }
  | .orReg x _ => { v := [x] }
  | .andReg x _ => { v := [x] }
  | .xorReg x _ => { v := [x] }
  | .addReg x _ => { v := [x, VF] }
  | .subReg x _ => { v := [x, VF] }
  | .shr x _ => { v := [x, VF] }
  | .subnReg x _ => { v := [x, VF] }
  | .shl x _ => { v := [x, VF] }
  | .sneReg _ _ => {}
  | .ldI _ => { i := true }
  | .jpV0 _ => {}
  | .rnd x _ => { v := [x], rnd := true }
  | .drw _ _ _ => { v := [VF], disp := true, dirty := true }
  | .skp _ => {}
  | .sknp _ => {}
  | .ldVxDt x => { v := [x] }
  | .ldVxK _ => { await := true }
  | .ldDtVx _ => { dt := true }
  | .ldStVx _ => { st := true }
  | .addI _ => { i := true }
  | .ldF _ => { i := true }
  | .ldB _ => { mem := addressRange s.dataBase 3 }
  | .stRegs x => { mem := addressRange s.dataBase (x.toNat + 1) }
  | .ldRegs x => { v := regsFromZero x }

/-! ### Faults and `pc` -/

/-- The range `I .. I+n-1` leaves the address space (R62). -/
def dataFault (s : State) (n : Nat) : Option Trap :=
  if n ≠ 0 ∧ s.dataBase + n - 1 > 0xFFF then some ⟨.memoryOutOfBounds, s.dataBase + n - 1⟩ else none

/-- The key index of `V[x]` does not exist (R176). -/
def keyFault (s : State) (x : Reg) : Option Trap :=
  if (s.readV x).toNat > 15 then some ⟨.keyIndexOutOfRange, (s.readV x).toNat⟩ else none

/-- The one execution fault an instruction raises in a state, with the value it records: the conditions of
R180; every other instruction raises nothing. -/
def raises (s : State) : Instr → Option Trap
  | .call _ => if s.sp.toNat ≥ 15 then some ⟨.stackOverflow, s.sp.toNat⟩ else none
  | .ret => if s.sp.toNat = 0 then some ⟨.stackUnderflow, 0⟩ else none
  | .drw _ _ n => dataFault s n.toNat
  | .ldB _ => dataFault s 3
  | .stRegs x => dataFault s (x.toNat + 1)
  | .ldRegs x => dataFault s (x.toNat + 1)
  | .skp x => keyFault s x
  | .sknp x => keyFault s x
  | _ => none

/-- `pc + 4` when a skip's condition holds, else `pc + 2` (R25 (b)). -/
def skipTarget (s : State) (condition : Bool) : Word := if condition then s.pc + 4 else s.pc + 2

/-- Key `V[x]` is held down; false for an index that does not exist. -/
def keyHeld (s : State) (x : Reg) : Bool := s.keys[(s.readV x).toNat]?.getD false

/-- Where a completed instruction leaves `pc`, R25 (a), (b), (c), (e). -/
def pcAfter (s : State) : Instr → Word
  | .jp nnn => nnn.setWidth 16
  | .call nnn => nnn.setWidth 16
  | .jpV0 nnn => BitVec.ofNat 16 (nnn.toNat + (s.readV 0).toNat)
  | .ret => s.stack[s.sp.toNat]?.getD s.pc
  | .seImm x kk => skipTarget s (s.readV x == kk)
  | .sneImm x kk => skipTarget s (s.readV x != kk)
  | .seReg x y => skipTarget s (s.readV x == s.readV y)
  | .sneReg x y => skipTarget s (s.readV x != s.readV y)
  | .skp x => skipTarget s (keyHeld s x)
  | .sknp x => skipTarget s (!keyHeld s x)
  | .ldVxK _ => s.pc
  | _ => s.pc + 2

/-! ### Reset values (R40) -/

/-- Every piece of state of the block at the value of R40 (10_state.md); the rows the document is silent on are
decision D11's. -/
structure AtReset (s : State) : Prop where
  /-- `V`. -/
  v : ∀ x, s.readV x = 0
  /-- `I`. -/
  i : s.i = 0
  /-- `pc`. -/
  pc : s.pc = 0x200
  /-- `SP`. -/
  sp : s.sp = 0
  /-- `STACK`. -/
  stack : ∀ k (h : k < 16), s.stack[k] = 0
  /-- `DT`. -/
  dt : s.dt = 0
  /-- `ST`. -/
  st : s.st = 0
  /-- The font region. -/
  font : ∀ a, a < 0x50 → Memory.read s.mem a = Config.font a
  /-- The rest of memory. -/
  zeros : ∀ a, 0x50 ≤ a → Memory.read s.mem a = 0
  /-- `DISP` (D11). -/
  disp : ∀ r c, pixel s.disp r c = false
  /-- `dirty` (D11). -/
  dirty : s.dirty = false
  /-- `KEYS` (D11). -/
  keys : ∀ k, s.readKey k = false
  /-- `AWAIT` (D11). -/
  await : s.await = .none
  /-- `FAULT` (D11). -/
  fault : s.fault = none
  /-- `DFC` (D11). -/
  dfc : s.dfc = 0

/-! ### Looking at outcomes -/

/-- A function applied to the next state, a stop left as it is. -/
def mapNext (f : State → State) : Outcome → Outcome
  | .next t => .next (f t)
  | .fault r => .fault r
  | .refused r => .refused r

/-- A sprite bit that is 1 lands on pixel `(r, c)`: row `i`, column `j` of the sprite, both coordinates wrapped
(R162). -/
def spriteHits (x0 y0 : Nat) (bytes : List Byte) (r : Fin 32) (c : Fin 64) : Prop :=
  ∃ i j, ∃ h : i < bytes.length, j < 8 ∧ bytes[i].getLsbD (7 - j) = true
    ∧ r.val = (y0 + i) % 32 ∧ c.val = (x0 + j) % 64

/-- The decode-fault counter `n` decode faults after it was `c`, in closed form: `c + n`, or never past the maximum of
a finite width (R38, U16). -/
def dfcAfter : Option Nat → Nat → Nat → Nat
  | none, n, c => c + n
  | some width, n, c => max c (min (c + n) (2 ^ width - 1))

/-! ### Invariants and reachability (R42) -/

/-- The facts of R42 (10_state.md), with the canonical form of memory and what makes them inductive. -/
structure Inv (s : State) : Prop where
  /-- R42 (a). -/
  index : s.i.toNat ≤ 0xFFF
  /-- R42 (b). -/
  sp : s.sp.toNat ≤ 15
  /-- R42 (c). -/
  pc : s.pc.toNat ≤ 0x10FE
  /-- R42 (d): every stack entry. -/
  stack : ∀ k (h : k < 16), s.stack[k].toNat ≤ 0x1000
  /-- R42 (d): entry 0 is never written. -/
  stackZero : s.stack[0] = 0
  /-- The memory is in canonical form. -/
  mem : Memory.wf s.mem = true
  /-- R42 (f): while waiting, `pc` is at the `Fx0A`, and no `LOAD` may come. -/
  await : ∀ x, s.await = .waiting x →
    s.pc.toNat ≤ 0xFFE ∧ s.wordAtPc = 0xF#4 ++ x ++ 0x0A#8 ∧ s.loadOpen = false
  /-- D24: halted and waiting never hold at once. -/
  notBoth : s.fault.isSome = true → s.await = .none
  /-- The decode-fault counter fits its width, where that is finite (R38, D9). -/
  dfc : ∀ width, Config.dfcWidth = some width → s.dfc < 2 ^ width

/-- The states of the machine's runs: any schedule of host strobes from reset, `LOAD` of any image included. -/
inductive Reachable : State → Prop where
  /-- Right after reset, under any schedule. -/
  | reset (l : List Strobe) : Reachable (State.reset.setSchedule l)
  /-- One step on. -/
  | step {s t : State} : Reachable s → Machine.step s = .next t → Reachable t

/-! ### Safe and finished runs -/

/-- A run of `n` steps that meets no fatal fault and no stop of the model. -/
def SafeRun (n : Nat) (s : State) : Prop := ∃ t, Sys2Proof.core.run n s = .next t ∧ t.fault = none

/-- The end of a program that decision D23 offers: a latched fault, or `pc` at a jump to itself (R203). -/
def State.finished (s : State) : Prop :=
  s.fault.isSome = true ∨ (s.pc.toNat ≤ 0xFFE ∧ decodeWord s.wordAtPc = .ok (.jp (s.pc.setWidth 12)))

end Sys2Proof.Machine
end

