-- ==== Sys2Proof/Certificates/Slice0/Obligations.lean ====
section
/-! DEFINITION. The statements for the provers.  Each names the rules of spec/ it formalises; where a clause rests on
one of the spec's own decisions D<n> (92_eei_decisions.md) or on an entry of this model's assumption log, its
docstring says so. -/

open Sys2Proof Sys2Proof.Machine

/-! ### Encoding -/

/-- R91, R94, R97: decoding the encoding of an instruction gives it back, with every operand at every value, as a
word and as the first two bytes of any byte list. -/
def Obligations.EveryInstructionDecodesFromItsEncoding : Prop :=
  ∀ (i : Instr) (rest : List Byte),
    decodeWord (encode i) = .ok i ∧ decodeBytes (encodeBytes i ++ rest) = .ok (i, rest)

/-- R91, R97, R98: no bit of a recognised word is dropped, the ignored field `y` of the shifts included: the word
is the encoding of what it decodes to. -/
def Obligations.EveryRecognisedWordIsTheEncodingOfItsInstruction : Prop :=
  ∀ (w : Word) (i : Instr), decodeWord w = .ok i → encode i = w

/-- R94, R95 (exact matching is decision D4): the decoder rejects a word, under its own name, exactly when no row of
the table accepts it, and a recognised word is accepted by the row of its instruction. -/
def Obligations.DecoderAgreesWithTheOpcodeTable : Prop :=
  ∀ w : Word,
    (decodeWord w = .error (.unrecognised w) ↔ ∀ r ∈ opcodeTable, ¬ r.accepts w) ∧
    (∀ e, decodeWord w = .error e → e = .unrecognised w) ∧
    (∀ i, decodeWord w = .ok i → ∃ r, opcodeTable[rowIndex i]? = some r ∧ r.accepts w)

/-- R94: no two rows match the same word. -/
def Obligations.NoTwoOpcodeRowsAcceptTheSameWord : Prop :=
  ∀ (w : Word) (j k : Nat) (r r' : OpcodeRow), opcodeTable[j]? = some r → opcodeTable[k]? = some r' →
    r.accepts w → r'.accepts w → j = k

/-- Words written out in the spec's examples and test vectors decode to the instructions they stand for, and
words the spec calls unrecognised do not decode. -/
def Obligations.WordsOfTheSpecDecodeAsItSays : Prop :=
  decodeWord 0x00E0 = .ok .cls ∧ decodeWord 0x00EE = .ok .ret ∧ decodeWord 0x1204 = .ok (.jp 0x204) ∧
  decodeWord 0x220C = .ok (.call 0x20C) ∧ decodeWord 0x4A11 = .ok (.sneImm 0xA 0x11) ∧
  decodeWord 0x7364 = .ok (.addImm 3 0x64) ∧ decodeWord 0x8176 = .ok (.shr 1 7) ∧
  decodeWord 0xDAB2 = .ok (.drw 0xA 0xB 2) ∧ decodeWord 0xE2A1 = .ok (.sknp 2) ∧
  decodeWord 0xF265 = .ok (.ldRegs 2) ∧ decodeWord 0x0000 = .error (.unrecognised 0x0000) ∧
  decodeWord 0x5231 = .error (.unrecognised 0x5231) ∧ decodeWord 0x812F = .error (.unrecognised 0x812F) ∧
  decodeWord 0xE29F = .error (.unrecognised 0xE29F) ∧ decodeWord 0xF20B = .error (.unrecognised 0xF20B)

/-! ### The EXEC cycle -/

/-- R63, whole: the fetched word is big-endian, and the fetch fails exactly when `pc + 1 > 0xFFF`, at the low end
never. -/
def Obligations.FetchIsBigEndianAndBoundedAtTheTop : Prop :=
  ∀ s : State,
    (s.pc.toNat + 1 ≤ 0xFFF → ∃ w : Word, s.fetch = .ok w ∧
      w.toNat = (Memory.read s.mem s.pc.toNat).toNat * 256 + (Memory.read s.mem (s.pc.toNat + 1)).toNat) ∧
    (s.pc.toNat + 1 > 0xFFF → s.fetch = .error ⟨.fetchOutOfBounds, s.pc.toNat⟩)

/-- R90: a step strobe in a state that is neither halted nor waiting runs exactly the instruction whose bytes stand
at `pc`.  What a step adds around `exec` is the model's own: the strobe leaves the schedule (log entry 1) and the
`LOAD` window closes (log entry 6). -/
def Obligations.StepRunsTheInstructionAtPc : Prop :=
  ∀ (s : State) (i : Instr), s.nextStrobe = .exec → s.fault = none → s.await = .none →
    s.pc.toNat + 1 ≤ 0xFFF → decodeBytes (Memory.readBytes s.mem s.pc.toNat 2) = .ok (i, []) →
    step s = exec i { s with schedule := s.schedule.tail, loadOpen := false }

/-- R189, R190, R201, R202 (decisions D7, D8): a step strobe while halted or waiting changes nothing, and reports
`Halted`, which comes first, or `Waiting`. -/
def Obligations.StrobeWhileHaltedOrWaitingChangesNothing : Prop :=
  ∀ s : State, s.nextStrobe = .exec →
    (∀ f, s.fault = some f →
      step s = .next { s with schedule := s.schedule.tail } ∧ s.outcome = some (.halted f.cause)) ∧
    (∀ x, s.fault = none → s.await = .waiting x →
      step s = .next { s with schedule := s.schedule.tail } ∧ s.outcome = some .waiting)

/-- R95, R181 (the counter is decision D9): a word no row accepts counts one decode fault in `DFC`, moves `pc` on by 2,
changes nothing else of the block and reports `DecodeFault` with the word.  The width of the counter is the open
parameter `DFC_WIDTH` (log entry 4): the statement holds for the unbounded counter, which goes up by 1, and for every
width, where it stays at its maximum. -/
def Obligations.UnrecognisedWordIsCountedAndSkipped : Prop :=
  ∀ s : State, s.nextStrobe = .exec → s.fault = none → s.await = .none → s.pc.toNat + 1 ≤ 0xFFF →
    (∀ r ∈ opcodeTable, ¬ r.accepts s.wordAtPc) →
    step s = .next { s with dfc := dfcAfter Config.dfcWidth 1 s.dfc, pc := s.pc + 2, schedule := s.schedule.tail,
                            loadOpen := false } ∧
    s.outcome = some (.decodeFault s.wordAtPc)

/-- R182, R188, R189 (the latch is decision D8): a fetch above 0xFFE latches `FetchOutOfBounds` with `pc`, changes
nothing else of the block and reports it. -/
def Obligations.FetchOutOfBoundsIsLatched : Prop :=
  ∀ s : State, s.nextStrobe = .exec → s.fault = none → s.await = .none → s.pc.toNat + 1 > 0xFFF →
    step s = .next { s with fault := some ⟨.fetchOutOfBounds, s.pc.toNat, s.pc⟩, schedule := s.schedule.tail,
                            loadOpen := false } ∧
    s.outcome = some (.fatal .fetchOutOfBounds s.pc.toNat)

/-- R202: what the outcome of a step strobe says is what happened to the state; a `DecodeFault` has been counted as the
open width of the counter allows (decision D9, log entry 4). -/
def Obligations.ReportedOutcomeIsWhatHappened : Prop :=
  ∀ s t : State, s.execCycle = .next t →
    (s.outcome = some .ok → s.fault = none ∧ t.fault = none ∧ t.dfc = s.dfc ∧
      ∃ i, decodeWord s.wordAtPc = .ok i ∧ exec i s.closeLoad = .next t) ∧
    (s.outcome = some .waiting → t = s ∧ s.fault = none ∧ ∃ x, s.await = .waiting x) ∧
    (∀ w, s.outcome = some (.decodeFault w) → w = s.wordAtPc ∧
      t.dfc = dfcAfter Config.dfcWidth 1 s.dfc ∧ t.pc = s.pc + 2) ∧
    (∀ c n, s.outcome = some (.fatal c n) ↔ s.fault = none ∧ t.fault = some ⟨c, n, s.pc⟩) ∧
    (∀ c, s.outcome = some (.halted c) → t = s ∧ ∃ f, s.fault = some f ∧ f.cause = c)

/-- R95, R211, R220 (decision D4): under the empty schedule, where the host strobes `step` and nothing else (the model's
choice, log entry 1), memory that holds zeros from `pc` on is walked through one decode fault per word.  Runs with a
`TICK`, `KEY` or `FLUSH` between the strobes are left out.  The counter counts each fault, never past the maximum of its
open width (decision D9, log entry 4); nothing else of the state changes but `pc` and the `LOAD` window (log entry
6). -/
def Obligations.ZeroMemoryIsWalkedThroughByDecodeFaults : Prop :=
  ∀ (n : Nat) (s : State), s.fault = none → s.await = .none → s.schedule = [] →
    s.pc.toNat + 2 * n ≤ 0x1000 →
    (∀ a, s.pc.toNat ≤ a → a < s.pc.toNat + 2 * n → Memory.read s.mem a = 0) →
    ∃ t : State, Sys2Proof.core.run n s = .next t ∧ t.pc.toNat = s.pc.toNat + 2 * n ∧
      t.dfc = dfcAfter Config.dfcWidth n s.dfc ∧
      t = { s with pc := t.pc, dfc := t.dfc, loadOpen := t.loadOpen }

/-- R6, R38 (decision D9; that a finite width saturates is the spec's own advice, U16; log entry 4): for every value of
the parameter `DFC_WIDTH`, `n` decode faults in a row leave the counter at the sum while there is room for it, and at
the maximum of its width from then on; the unbounded counter always has room. -/
def Obligations.DecodeFaultCounterCountsUpToItsWidth : Prop :=
  ∀ n c : Nat,
    (dfcIncrement none)^[n] c = c + n ∧
    (∀ width, c < 2 ^ width →
      (c + n < 2 ^ width → (dfcIncrement (some width))^[n] c = c + n) ∧
      (2 ^ width ≤ c + n → (dfcIncrement (some width))^[n] c = 2 ^ width - 1)) ∧
    (∀ width, (dfcIncrement width)^[n] c = dfcAfter width n c)

/-! ### Whole-machine rules over all instructions -/

/-- R25, R43, R180: every instruction that raises no fault completes, leaves `pc` where R25 says and changes nothing
but the "w" entries of its row of R43.  For `00EE` the stack entry must exist, `SP <= 15` (R42 (b); log entry 9).
The skip distance is decision D2. -/
def Obligations.EveryInstructionCompletesAndKeepsItsFrame : Prop :=
  ∀ (i : Instr) (s : State), raises s i = none → (i = .ret → s.sp.toNat ≤ 15) →
    ∃ t, exec i s = .next t ∧ t.pc = pcAfter s i ∧ Frame (touches s i) s t

/-- R180, R188, R189 (decisions D5, D6, D8): an instruction that raises a fatal fault latches it with the recorded
value and its own `pc`, and changes nothing else. -/
def Obligations.EveryExecutionFaultIsPrecise : Prop :=
  ∀ (i : Instr) (s : State) (e : Trap), raises s i = some e →
    exec i s = .next { s with fault := some ⟨e.cause, e.info, s.pc⟩ }

/-- The one stop of the model, no rule of the spec (log entry 9): a return with `SP` above 15, where the stack has
no entry, stops; every other instruction answers a next state in every state. -/
def Obligations.OnlyAReturnWithoutAStackEntryStops : Prop :=
  ∀ (i : Instr) (s : State),
    (i = .ret ∧ s.sp.toNat > 15 → exec i s = .fault .stackPointerOutOfRange) ∧
    (¬(i = .ret ∧ s.sp.toNat > 15) → ∃ t, exec i s = .next t)

/-- R22: the six flag writers leave exactly 0 or 1 in `V[F]`, unless register F is the result register of one of the
five ALU instructions (decision D3). -/
def Obligations.FlagWritersLeaveZeroOrOne : Prop :=
  ∀ (x y : Reg) (n : Nibble) (s t : State),
    ((x ≠ VF ∧ (exec (.addReg x y) s = .next t ∨ exec (.subReg x y) s = .next t ∨ exec (.shr x y) s = .next t ∨
      exec (.subnReg x y) s = .next t ∨ exec (.shl x y) s = .next t)) ∨
      (exec (.drw x y n) s = .next t ∧ raises s (.drw x y n) = none)) →
    t.readV VF = 0 ∨ t.readV VF = 1

/-- R29, R32, R34, R38, R43: no instruction reads `ST`, `dirty` or `DFC`, and none but `Ex9E` and `ExA1` reads
`KEYS`: with that piece of state changed, the instruction does the same to all the rest. -/
def Obligations.InstructionsDoNotReadSoundTimerDirtyCounterOrKeys : Prop :=
  ∀ (i : Instr) (s : State),
    (∀ b, mapNext (fun t => { t with st := 0 }) (exec i { s with st := b })
      = mapNext (fun t => { t with st := 0 }) (exec i s)) ∧
    (∀ b, mapNext (fun t => { t with dirty := false }) (exec i { s with dirty := b })
      = mapNext (fun t => { t with dirty := false }) (exec i s)) ∧
    (∀ n, mapNext (fun t => { t with dfc := 0 }) (exec i { s with dfc := n })
      = mapNext (fun t => { t with dfc := 0 }) (exec i s)) ∧
    (∀ k, (∀ x, i ≠ .skp x) → (∀ x, i ≠ .sknp x) →
      mapNext (fun t => { t with keys := s.keys }) (exec i { s with keys := k }) = exec i s)

/-! ### Invariants -/

/-- R42 (a) to (d), (f), decision D24, the canonical form of memory and the width of `DFC` (D9, log entry 4): from every
state that meets the invariants, whatever strobe comes, a step gives a state that meets them. -/
def Obligations.EveryStepKeepsTheInvariants : Prop :=
  ∀ s t : State, Inv s → step s = .next t → Inv t

/-- The reset state meets the invariants of R42 under every schedule. -/
def Obligations.ResetStateMeetsTheInvariants : Prop :=
  ∀ l : List Strobe, Inv (State.reset.setSchedule l)

/-- R42: the invariants hold in every state reachable from reset, whatever image is loaded and however the host
interleaves its strobes. -/
def Obligations.EveryReachableStateMeetsTheInvariants : Prop := ∀ s : State, Reachable s → Inv s

/-- R37, R42 (g), R191 (decision D8): a latched fault stays as it is, and the decode-fault count does not go down and
goes up by at most 1, in every step but a `RESET`, whatever the width of the counter (log entry 4). -/
def Obligations.FaultRecordStaysAndCountGrowsUntilReset : Prop :=
  ∀ s t : State, step s = .next t → s.nextStrobe ≠ .reset →
    (∀ f, s.fault = some f → t.fault = some f) ∧ s.dfc ≤ t.dfc ∧ t.dfc ≤ s.dfc + 1

/-- R213, decision D16: under a schedule that keeps what the host owes, a state that meets the invariants always has a
next step, and the rest of the schedule still keeps it. -/
def Obligations.AnObedientHostIsNeverRefused : Prop :=
  ∀ s : State, Inv s → scheduleWellFormed s.loadOpen s.schedule = true →
    ∃ t, step s = .next t ∧ scheduleWellFormed t.loadOpen t.schedule = true

/-! ### The host's steps -/

/-- R194 (decisions D20, D28): a `TICK` takes 1 from each timer that is above 0, in every state, and touches nothing
else. -/
def Obligations.TickCountsBothTimersDown : Prop :=
  ∀ s : State, s.nextStrobe = .tick →
    ∃ t, step s = .next t ∧ t.dt.toNat = s.dt.toNat - 1 ∧ t.st.toNat = s.st.toNat - 1 ∧
      t = { s with dt := t.dt, st := t.st, schedule := s.schedule.tail }

/-- R195 (decisions D7, D20, D29): a `KEY` step sets the level of its key; exactly a key-down transition during a wait
writes the index to the waiting register, ends the wait and advances `pc`; nothing else changes. -/
def Obligations.KeyEventSetsTheLevelAndMayEndTheWait : Prop :=
  ∀ (s : State) (k : Nibble) (pressed : Bool), s.nextStrobe = .key k pressed →
    ∃ t, step s = .next t ∧ t.readKey k = pressed ∧ (∀ j, j ≠ k → t.readKey j = s.readKey j) ∧
      (∀ x, s.await = .waiting x → pressed = true → s.readKey k = false →
        (t.readV x).toNat = k.toNat ∧ (∀ r, r ≠ x → t.readV r = s.readV r) ∧ t.await = .none ∧
        t.pc = s.pc + 2) ∧
      ((s.await = .none ∨ pressed = false ∨ s.readKey k = true) →
        t.v = s.v ∧ t.await = s.await ∧ t.pc = s.pc) ∧
      t = { s with keys := t.keys, v := t.v, await := t.await, pc := t.pc, schedule := s.schedule.tail }

/-- R196 (the layout of the copy is decision D15): a `FLUSH` clears `dirty` and changes nothing else; the host gets
the frame exactly when `dirty` was set, bit `64 r + c` of it being `DISP[r][c]`. -/
def Obligations.FlushCopiesTheFrameAndClearsDirty : Prop :=
  ∀ s : State,
    (s.nextStrobe = .flush → step s = .next { s with dirty := false, schedule := s.schedule.tail }) ∧
    (s.dirty = true → ∃ frame, s.flushedFrame = some frame ∧ frame.length = 2048 ∧
      ∀ (r : Fin 32) (c : Fin 64), frame[64 * r.val + c.val]? = some (pixel s.disp r c)) ∧
    (s.dirty = false → s.flushedFrame = none)

/-- R74 (when a `LOAD` may come is decision D16): an image of at most 3584 bytes is copied verbatim to 0x200 and up,
every other cell keeps its byte, and nothing else changes but the model's `LOAD` window (log entry 6). -/
def Obligations.LoadCopiesTheImageVerbatim : Prop :=
  ∀ (s : State) (bytes : List Byte), s.nextStrobe = .load bytes → s.loadOpen = true → bytes.length ≤ 3584 →
    ∃ t, step s = .next t ∧
      (∀ k (h : k < bytes.length), Memory.read t.mem (0x200 + k) = bytes[k]) ∧
      (∀ a, a < 0x200 ∨ 0x200 + bytes.length ≤ a → Memory.read t.mem a = Memory.read s.mem a) ∧
      t = { s with mem := t.mem, loadOpen := false, schedule := s.schedule.tail }

/-- R74, R187, U10, U11 (decision D16): a `LOAD` outside its window, or of a longer image, is refused under its own
name (log entries 6 and 7). -/
def Obligations.LoadIsRefusedOutsideItsWindowOrBounds : Prop :=
  ∀ (s : State) (bytes : List Byte), s.nextStrobe = .load bytes →
    (s.loadOpen = false → step s = .refused .loadNotPermitted) ∧
    (s.loadOpen = true → bytes.length > 3584 → step s = .refused .romTooLarge)

/-- R40, R210 (the rows of D11 and a reset in mid-run, D8, are the spec's decisions): a `RESET` puts every piece of
state at its reset value, from every state; the model's own schedule and sample count go on (log entries 1, 2). -/
def Obligations.ResetRestoresEveryPieceOfState : Prop :=
  ∀ s : State, s.nextStrobe = .reset →
    ∃ t, step s = .next t ∧ AtReset t ∧ t.schedule = s.schedule.tail ∧ t.rndCount = s.rndCount ∧ t.loadOpen = true

/-- R40 (the rows of decision D11 are the spec's own): the state after reset holds the values of the table. -/
def Obligations.ResetStateHoldsTheValuesOfTheTable : Prop := AtReset State.reset

/-! ### Control transfer -/

/-- R111, whole: the words `1nnn` are the jump, which sets `pc` to `nnn`, writes nothing else and raises nothing. -/
def Obligations.JumpSetsPcToItsAddress : Prop :=
  ∀ (nnn : Address) (s : State),
    decodeWord (0x1#4 ++ nnn) = .ok (.jp nnn) ∧
    ∃ t, exec (.jp nnn) s = .next t ∧ t.pc.toNat = nnn.toNat ∧ Frame {} s t

/-- R113 (no reduction of the sum is decision D30): `pc` becomes the exact sum of `nnn` and `V[0]`. -/
def Obligations.IndexedJumpAddsV0WithoutWrapping : Prop :=
  ∀ (nnn : Address) (s : State),
    ∃ t, exec (.jpV0 nnn) s = .next t ∧ t.pc.toNat = nnn.toNat + (s.readV 0).toNat ∧ Frame {} s t

/-- R112, R183 (the pushed value is decision D1, the latched fault D8): a call with `SP` below 15 pushes `pc + 2` to
the entry above and jumps; any other latches `StackOverflow`. -/
def Obligations.CallPushesTheReturnAddressOrOverflows : Prop :=
  ∀ (nnn : Address) (s : State),
    (s.sp.toNat < 15 → ∃ t, exec (.call nnn) s = .next t ∧ t.sp.toNat = s.sp.toNat + 1 ∧
      t.stack[s.sp.toNat + 1]? = some (s.pc + 2) ∧ t.pc.toNat = nnn.toNat ∧
      Frame { sp := true, stack := [s.sp.toNat + 1] } s t) ∧
    (15 ≤ s.sp.toNat →
      exec (.call nnn) s = .next { s with fault := some ⟨.stackOverflow, s.sp.toNat, s.pc⟩ })

/-- R114, R184 (the latched fault is decision D8): a return with `SP` from 1 to 15 takes `pc` from the entry at `SP`,
which keeps its value, and takes 1 from `SP`; with `SP` 0 it latches `StackUnderflow`. -/
def Obligations.ReturnPopsTheStackOrUnderflows : Prop :=
  ∀ s : State,
    (∀ _ : 1 ≤ s.sp.toNat, ∀ h : s.sp.toNat ≤ 15, ∃ t, exec .ret s = .next t ∧
      t.pc = s.stack[s.sp.toNat] ∧ t.sp.toNat = s.sp.toNat - 1 ∧ Frame { sp := true } s t) ∧
    (s.sp.toNat = 0 → exec .ret s = .next { s with fault := some ⟨.stackUnderflow, 0, s.pc⟩ })

/-- R112, R114 and the source's round-trip property S3 (decision D1): a return right after a call comes back to the
instruction after the call, with the stack pointer as it was. -/
def Obligations.ReturnUndoesACall : Prop :=
  ∀ (nnn : Address) (s : State), s.sp.toNat < 15 →
    ∃ t u, exec (.call nnn) s = .next t ∧ exec .ret t = .next u ∧ u.pc = s.pc + 2 ∧ u.sp = s.sp ∧
      Frame { stack := [s.sp.toNat + 1] } s u

/-! ### Skips -/

/-- R121, R122 (the distance of a taken skip is decision D2): skip if equal and skip if different, on a register and
an immediate; one of the two skips exactly when the other does not. -/
def Obligations.ImmediateSkipsCompareARegister : Prop :=
  ∀ (x : Reg) (kk : Byte) (s : State),
    ∃ t u, exec (.seImm x kk) s = .next t ∧ exec (.sneImm x kk) s = .next u ∧
      ((s.readV x).toNat = kk.toNat → t.pc = s.pc + 4 ∧ u.pc = s.pc + 2) ∧
      ((s.readV x).toNat ≠ kk.toNat → t.pc = s.pc + 2 ∧ u.pc = s.pc + 4) ∧ Frame {} s t ∧ Frame {} s u

/-- R123, R124 (the distance is decision D2, the exact low digit D4): skip if equal and skip if different, on two
registers; a low digit other than 0 is no instruction. -/
def Obligations.RegisterSkipsCompareTwoRegisters : Prop :=
  ∀ (x y : Reg) (s : State),
    (∃ t u, exec (.seReg x y) s = .next t ∧ exec (.sneReg x y) s = .next u ∧
      ((s.readV x).toNat = (s.readV y).toNat → t.pc = s.pc + 4 ∧ u.pc = s.pc + 2) ∧
      ((s.readV x).toNat ≠ (s.readV y).toNat → t.pc = s.pc + 2 ∧ u.pc = s.pc + 4) ∧
      Frame {} s t ∧ Frame {} s u) ∧
    (∀ n : Nibble, n ≠ 0 →
      (∀ i, decodeWord (0x5#4 ++ x ++ y ++ n) ≠ .ok i) ∧ (∀ i, decodeWord (0x9#4 ++ x ++ y ++ n) ≠ .ok i))

/-! ### Register load and ALU -/

/-- R130, R132, whole: `6xkk` and `8xy0` put the immediate and `V[y]` into `V[x]`, touch no flag and raise
nothing. -/
def Obligations.LoadsCopyAnImmediateOrARegister : Prop :=
  ∀ (x y : Reg) (kk : Byte) (s : State),
    decodeWord (0x6#4 ++ x ++ kk) = .ok (.ldImm x kk) ∧
    decodeWord (0x8#4 ++ x ++ y ++ 0x0#4) = .ok (.ldReg x y) ∧
    (∃ t, exec (.ldImm x kk) s = .next t ∧ t.readV x = kk ∧ t.pc = s.pc + 2 ∧ Frame { v := [x] } s t) ∧
    (∃ t, exec (.ldReg x y) s = .next t ∧ t.readV x = s.readV y ∧ t.pc = s.pc + 2 ∧ Frame { v := [x] } s t)

/-- R131, whole: `7xkk` adds modulo 256 and writes no flag, also when the sum exceeds 255 (for `x = F` the flag
register is the destination). -/
def Obligations.AddImmediateWrapsWithoutAFlag : Prop :=
  ∀ (x : Reg) (kk : Byte) (s : State),
    decodeWord (0x7#4 ++ x ++ kk) = .ok (.addImm x kk) ∧
    ∃ t, exec (.addImm x kk) s = .next t ∧ (t.readV x).toNat = ((s.readV x).toNat + kk.toNat) % 256 ∧
      t.pc = s.pc + 2 ∧ Frame { v := [x] } s t

/-- R133, R134, R135 (that `V[F]` is left alone is decision D26): the logic operations work bit by bit. -/
def Obligations.LogicOperationsWorkBitByBit : Prop :=
  ∀ (x y : Reg) (s : State),
    (∃ t, exec (.orReg x y) s = .next t ∧
      (∀ j, j < 8 → (t.readV x).getLsbD j = ((s.readV x).getLsbD j || (s.readV y).getLsbD j)) ∧
      t.pc = s.pc + 2 ∧ Frame { v := [x] } s t) ∧
    (∃ t, exec (.andReg x y) s = .next t ∧
      (∀ j, j < 8 → (t.readV x).getLsbD j = ((s.readV x).getLsbD j && (s.readV y).getLsbD j)) ∧
      t.pc = s.pc + 2 ∧ Frame { v := [x] } s t) ∧
    (∃ t, exec (.xorReg x y) s = .next t ∧
      (∀ j, j < 8 → (t.readV x).getLsbD j = ((s.readV x).getLsbD j != (s.readV y).getLsbD j)) ∧
      t.pc = s.pc + 2 ∧ Frame { v := [x] } s t)

/-- R136, R143 (the write order for `x = F` is decision D3): the exact sum modulo 256 in `V[x]`, its carry in `V[F]`
unless `x` is F. -/
def Obligations.AddRegisterSetsTheCarry : Prop :=
  ∀ (x y : Reg) (s : State),
    ∃ t, exec (.addReg x y) s = .next t ∧
      (t.readV x).toNat = ((s.readV x).toNat + (s.readV y).toNat) % 256 ∧
      (x ≠ VF → t.readV VF = if (s.readV x).toNat + (s.readV y).toNat > 255 then 1 else 0) ∧
      t.pc = s.pc + 2 ∧ Frame { v := [x, VF] } s t

/-- R137, R139, R143 (the write order for `x = F` is decision D3): the two subtractions, `V[F]` = no borrow, equality
included, unless `x` is F. -/
def Obligations.SubtractionsSetNoBorrow : Prop :=
  ∀ (x y : Reg) (s : State),
    (∃ t, exec (.subReg x y) s = .next t ∧
      (t.readV x).toNat = ((s.readV x).toNat + 256 - (s.readV y).toNat) % 256 ∧
      (x ≠ VF → t.readV VF = if (s.readV x).toNat ≥ (s.readV y).toNat then 1 else 0) ∧
      t.pc = s.pc + 2 ∧ Frame { v := [x, VF] } s t) ∧
    (∃ t, exec (.subnReg x y) s = .next t ∧
      (t.readV x).toNat = ((s.readV y).toNat + 256 - (s.readV x).toNat) % 256 ∧
      (x ≠ VF → t.readV VF = if (s.readV y).toNat ≥ (s.readV x).toNat then 1 else 0) ∧
      t.pc = s.pc + 2 ∧ Frame { v := [x, VF] } s t)

/-- R98, R138, R140, R143 (the write order for `x = F` is decision D3): the shifts move `V[x]` by one place, the bit
shifted out goes to `V[F]` unless `x` is F, and the field `y` plays no part. -/
def Obligations.ShiftsMoveOneBitAndIgnoreY : Prop :=
  ∀ (x y y' : Reg) (s : State),
    (∃ t, exec (.shr x y) s = .next t ∧ exec (.shr x y') s = .next t ∧
      (t.readV x).toNat = (s.readV x).toNat / 2 ∧
      (x ≠ VF → (t.readV VF).toNat = (s.readV x).toNat % 2) ∧
      t.pc = s.pc + 2 ∧ Frame { v := [x, VF] } s t) ∧
    (∃ t, exec (.shl x y) s = .next t ∧ exec (.shl x y') s = .next t ∧
      (t.readV x).toNat = (s.readV x).toNat * 2 % 256 ∧
      (x ≠ VF → (t.readV VF).toNat = (s.readV x).toNat / 128) ∧
      t.pc = s.pc + 2 ∧ Frame { v := [x, VF] } s t)

/-- R141, R198 (the unconstrained byte is decision D12): `Cxkk` puts one fresh sample of the random byte, masked by
`kk`, into `V[x]`.  The sample is the free value `Config.rnd` (log entry 2): the statement holds whatever it is. -/
def Obligations.RandomByteIsOneFreshMaskedSample : Prop :=
  ∀ (x : Reg) (kk : Byte) (s : State),
    ∃ t, exec (.rnd x kk) s = .next t ∧ t.rndCount = s.rndCount + 1 ∧
      (∀ j, j < 8 → (t.readV x).getLsbD j = ((Config.rnd s.rndCount).getLsbD j && kk.getLsbD j)) ∧
      (kk = 0 → t.readV x = 0) ∧ (kk = 0xFF → t.readV x = Config.rnd s.rndCount) ∧
      t.pc = s.pc + 2 ∧ Frame { v := [x], rnd := true } s t

/-! ### Index register and memory -/

/-- R150, R151, whole: `Annn` sets `I`; `Fx1E` adds modulo 4096 and writes no flag. -/
def Obligations.IndexIsLoadedOrAddedModulo4096 : Prop :=
  ∀ (x : Reg) (nnn : Address) (s : State),
    decodeWord (0xA#4 ++ nnn) = .ok (.ldI nnn) ∧ decodeWord (0xF#4 ++ x ++ 0x1E#8) = .ok (.addI x) ∧
    (∃ t, exec (.ldI nnn) s = .next t ∧ t.i.toNat = nnn.toNat ∧ t.pc = s.pc + 2 ∧ Frame { i := true } s t) ∧
    (∃ t, exec (.addI x) s = .next t ∧ t.i.toNat = (s.i.toNat + (s.readV x).toNat) % 4096 ∧
      t.pc = s.pc + 2 ∧ Frame { i := true } s t)

/-- R152 (the whole byte is multiplied, decision D27): `Fx29` sets `I` to `V[x] * 5`; the old `I` plays no part. -/
def Obligations.FontAddressIsFiveTimesTheByte : Prop :=
  ∀ (x : Reg) (s : State),
    ∃ t, exec (.ldF x) s = .next t ∧ t.i.toNat = (s.readV x).toNat * 5 ∧ t.pc = s.pc + 2 ∧
      Frame { i := true } s t

/-- R62, R153, R185 (the fault is decision D5): `Fx33` stores hundreds, tens and ones at `I`, `I+1`, `I+2`, or latches
`MemoryOutOfBounds` with nothing stored. -/
def Obligations.DecimalDigitsAreStoredOrNothingIs : Prop :=
  ∀ (x : Reg) (s : State),
    (s.dataBase + 2 ≤ 0xFFF → ∃ t, exec (.ldB x) s = .next t ∧
      (Memory.read t.mem s.dataBase).toNat = (s.readV x).toNat / 100 ∧
      (Memory.read t.mem (s.dataBase + 1)).toNat = (s.readV x).toNat / 10 % 10 ∧
      (Memory.read t.mem (s.dataBase + 2)).toNat = (s.readV x).toNat % 10 ∧
      t.pc = s.pc + 2 ∧ Frame { mem := addressRange s.dataBase 3 } s t) ∧
    (s.dataBase + 2 > 0xFFF →
      exec (.ldB x) s = .next { s with fault := some ⟨.memoryOutOfBounds, s.dataBase + 2, s.pc⟩ })

/-- R62, R154, R156, R185 (the fault is decision D5): `Fx55` stores `V[0]` to `V[x]` from `I` up, or latches
`MemoryOutOfBounds` with nothing stored; `I` is unchanged. -/
def Obligations.RegistersAreStoredOrNothingIs : Prop :=
  ∀ (x : Reg) (s : State),
    (s.dataBase + x.toNat ≤ 0xFFF → ∃ t, exec (.stRegs x) s = .next t ∧
      (∀ k : Reg, k.toNat ≤ x.toNat → Memory.read t.mem (s.dataBase + k.toNat) = s.readV k) ∧
      t.pc = s.pc + 2 ∧ Frame { mem := addressRange s.dataBase (x.toNat + 1) } s t) ∧
    (s.dataBase + x.toNat > 0xFFF →
      exec (.stRegs x) s = .next { s with fault := some ⟨.memoryOutOfBounds, s.dataBase + x.toNat, s.pc⟩ })

/-- R62, R155, R156, R185 (the fault is decision D5): `Fx65` loads `V[0]` to `V[x]` from `I` up, or latches
`MemoryOutOfBounds` with no register written; `I` and memory are unchanged. -/
def Obligations.RegistersAreLoadedOrNoneIs : Prop :=
  ∀ (x : Reg) (s : State),
    (s.dataBase + x.toNat ≤ 0xFFF → ∃ t, exec (.ldRegs x) s = .next t ∧
      (∀ k : Reg, k.toNat ≤ x.toNat → t.readV k = Memory.read s.mem (s.dataBase + k.toNat)) ∧
      t.pc = s.pc + 2 ∧ Frame { v := regsFromZero x } s t) ∧
    (s.dataBase + x.toNat > 0xFFF →
      exec (.ldRegs x) s = .next { s with fault := some ⟨.memoryOutOfBounds, s.dataBase + x.toNat, s.pc⟩ })

/-- R154, R155, R156, the source's round-trip property S6: registers stored by `Fx55` come back by an `Fx65` with the
same `x` and `I`, whatever happened to everything but `I` and memory in between. -/
def Obligations.StoredRegistersComeBackWhenLoaded : Prop :=
  ∀ (x : Reg) (s : State), s.dataBase + x.toNat ≤ 0xFFF →
    ∃ t, exec (.stRegs x) s = .next t ∧ t.i = s.i ∧
      ∀ u : State, u.i = t.i → u.mem = t.mem →
        ∃ w, exec (.ldRegs x) u = .next w ∧ ∀ k : Reg, k.toNat ≤ x.toNat → w.readV k = s.readV k

/-- R71, R75: an instruction stored right behind an `Fx55` is what the very next fetch reads. -/
def Obligations.AStoredInstructionIsFetchedNext : Prop :=
  ∀ (x : Reg) (s : State), 1 ≤ x.toNat → s.dataBase = s.pc.toNat + 2 → s.dataBase + x.toNat ≤ 0xFFF →
    ∃ t, exec (.stRegs x) s = .next t ∧ t.fetch = .ok (wordOfBytes (s.readV 0) (s.readV 1))

/-! ### Display -/

/-- R160, whole: `00E0` makes every pixel false and sets `dirty`, blank display or not. -/
def Obligations.ClearMakesEveryPixelFalse : Prop :=
  ∀ s : State,
    decodeWord 0x00E0#16 = .ok .cls ∧
    ∃ t, exec .cls s = .next t ∧ (∀ r c, pixel t.disp r c = false) ∧ t.dirty = true ∧ t.pc = s.pc + 2 ∧
      Frame { disp := true, dirty := true } s t

/-- R162: the loop of `draw_sprite` XORs exactly the pixels a 1 bit of the sprite lands on, wrapped on both axes; it
reports a collision exactly when one of those was set before, and marks `dirty` exactly when the sprite has a 1
bit. -/
def Obligations.DrawSpriteXorsTheSpriteIntoTheDisplay : Prop :=
  ∀ (x0 y0 : Nat) (bytes : List Byte) (d : Display), bytes.length ≤ 15 →
    (∀ r c, spriteHits x0 y0 bytes r c → pixel (drawSprite x0 y0 bytes d).disp r c = !pixel d r c) ∧
    (∀ r c, ¬ spriteHits x0 y0 bytes r c → pixel (drawSprite x0 y0 bytes d).disp r c = pixel d r c) ∧
    ((drawSprite x0 y0 bytes d).collision = true ↔ ∃ r c, spriteHits x0 y0 bytes r c ∧ pixel d r c = true) ∧
    ((drawSprite x0 y0 bytes d).toggled = true ↔ ∃ byte ∈ bytes, byte ≠ 0) ∧
    (∀ (x y : Reg) (s : State), (s.drawn x y bytes).dirty = true ↔ s.dirty = true ∨ ∃ byte ∈ bytes, byte ≠ 0)

/-- R161, R185 (the byte range and `n = 0` are decision D18, latching D3, the fault D5): `Dxyn` draws the `n` bytes at
`I` at column `V[x]`, row `V[y]`, and puts the collision into `V[F]`, or latches `MemoryOutOfBounds` with no pixel
changed. -/
def Obligations.DrawPutsTheSpriteAndTheCollision : Prop :=
  ∀ (x y : Reg) (n : Nibble) (s : State),
    let bytes := Memory.readBytes s.mem s.dataBase n.toNat
    let hits := spriteHits (s.readV x).toNat (s.readV y).toNat bytes
    ((n = 0 ∨ s.dataBase + n.toNat - 1 ≤ 0xFFF) → ∃ t, exec (.drw x y n) s = .next t ∧
      (∀ r c, hits r c → pixel t.disp r c = !pixel s.disp r c) ∧
      (∀ r c, ¬ hits r c → pixel t.disp r c = pixel s.disp r c) ∧
      ((∃ r c, hits r c ∧ pixel s.disp r c = true) → t.readV VF = 1) ∧
      ((¬ ∃ r c, hits r c ∧ pixel s.disp r c = true) → t.readV VF = 0) ∧
      (t.dirty = true ↔ s.dirty = true ∨ ∃ byte ∈ bytes, byte ≠ 0) ∧
      t.pc = s.pc + 2 ∧ Frame { v := [VF], disp := true, dirty := true } s t) ∧
    (n ≠ 0 → s.dataBase + n.toNat - 1 > 0xFFF →
      exec (.drw x y n) s
        = .next { s with fault := some ⟨.memoryOutOfBounds, s.dataBase + n.toNat - 1, s.pc⟩ })

/-- R162, R163 (a), the source's property S5: drawing the same bytes at the same coordinates again restores the
display, and the second draw reports a collision exactly when the first turned some pixel on; after a first draw
without a collision that is when the sprite has a 1 bit (C9; log entry 14 says where the spec's prose claims more).
The second draw may come from any state with the same operand values, memory and the drawn display, so no form of
`x` and `y` is shut out. -/
def Obligations.DrawingTwiceRestoresTheDisplay : Prop :=
  ∀ (x y : Reg) (n : Nibble) (s : State), (n = 0 ∨ s.dataBase + n.toNat - 1 ≤ 0xFFF) →
    let bytes := Memory.readBytes s.mem s.dataBase n.toNat
    let hits := spriteHits (s.readV x).toNat (s.readV y).toNat bytes
    ∃ t, exec (.drw x y n) s = .next t ∧
      ∀ u : State, u.disp = t.disp → u.mem = s.mem → u.i = s.i → u.readV x = s.readV x → u.readV y = s.readV y →
        ∃ w, exec (.drw x y n) u = .next w ∧ w.disp = s.disp ∧
          (w.readV VF = 1 ↔ ∃ r c, hits r c ∧ pixel s.disp r c = false) ∧
          (t.readV VF = 0 → (w.readV VF = 1 ↔ ∃ byte ∈ bytes, byte ≠ 0))

/-! ### Timers and keys -/

/-- R170, R171, R172: `Fx07` copies `DT` to `V[x]`, `Fx15` and `Fx18` copy `V[x]` to `DT` and `ST`, and `tone` is then
high exactly when `V[x]` is above 0. -/
def Obligations.TimerInstructionsCopyTheWholeByte : Prop :=
  ∀ (x : Reg) (s : State),
    decodeWord (0xF#4 ++ x ++ 0x07#8) = .ok (.ldVxDt x) ∧ decodeWord (0xF#4 ++ x ++ 0x15#8) = .ok (.ldDtVx x) ∧
    decodeWord (0xF#4 ++ x ++ 0x18#8) = .ok (.ldStVx x) ∧
    (∃ t, exec (.ldVxDt x) s = .next t ∧ t.readV x = s.dt ∧ t.pc = s.pc + 2 ∧ Frame { v := [x] } s t) ∧
    (∃ t, exec (.ldDtVx x) s = .next t ∧ t.dt = s.readV x ∧ t.pc = s.pc + 2 ∧ Frame { dt := true } s t) ∧
    (∃ t, exec (.ldStVx x) s = .next t ∧ t.st = s.readV x ∧ (t.tone = true ↔ (s.readV x).toNat > 0) ∧
      t.pc = s.pc + 2 ∧ Frame { st := true } s t)

/-- R173, R174, R176, R186 (the distance is decision D2, the fault D6): the key skips test the level of the key
`V[x]` names, one skipping exactly when the other does not; an index above 15 latches `KeyIndexOutOfRange`. -/
def Obligations.KeySkipsTestTheLevelOrFault : Prop :=
  ∀ (x : Reg) (s : State),
    (∀ h : (s.readV x).toNat ≤ 15, ∃ t u, exec (.skp x) s = .next t ∧ exec (.sknp x) s = .next u ∧
      (s.keys[(s.readV x).toNat] = true → t.pc = s.pc + 4 ∧ u.pc = s.pc + 2) ∧
      (s.keys[(s.readV x).toNat] = false → t.pc = s.pc + 2 ∧ u.pc = s.pc + 4) ∧ Frame {} s t ∧ Frame {} s u) ∧
    ((s.readV x).toNat > 15 →
      exec (.skp x) s = .next { s with fault := some ⟨.keyIndexOutOfRange, (s.readV x).toNat, s.pc⟩ } ∧
      exec (.sknp x) s = .next { s with fault := some ⟨.keyIndexOutOfRange, (s.readV x).toNat, s.pc⟩ })

/-- R36, R175 (the two halves are decision D7): `Fx0A` enters the wait for `V[x]` with `pc` where it is and nothing
else changed; from a state with no fault, every later step strobe then leaves the state alone and a key-down
transition completes the instruction. -/
def Obligations.WaitForKeyHoldsUntilAKeyGoesDown : Prop :=
  ∀ (x : Reg) (s : State),
    ∃ t, exec (.ldVxK x) s = .next t ∧ t.await = .waiting x ∧ t.pc = s.pc ∧ Frame { await := true } s t ∧
      (s.fault = none → t.execCycle = .next t) ∧
      (∀ k, s.readKey k = false → ∃ u, t.strobe (.key k true) = .next u ∧ (u.readV x).toNat = k.toNat ∧
        u.await = .none ∧ u.pc = s.pc + 2 ∧ u.readKey k = true)
end

