-- ==== Sys2Proof/Laws/Decode.lean ====
section
/-! SUPPORT. The fields of a word put together from fields (R91). -/

namespace Sys2Proof

/-- A slice, read as a number. -/
theorem toNat_slice (w : Word) (start len : Nat) :
    (w.extractLsb' start len).toNat = w.toNat / 2 ^ start % 2 ^ len := by
  simp [BitVec.extractLsb'_toNat, Nat.shiftRight_eq_div_pow]

theorem toNat_field4 (op x y n : Nibble) :
    (op ++ x ++ y ++ n : Word).toNat = op.toNat * 4096 + x.toNat * 256 + y.toNat * 16 + n.toNat := by
  have hx := x.isLt; have hy := y.isLt; have hn := n.isLt
  simp only [BitVec.toNat_append]
  rw [← Nat.shiftLeft_add_eq_or_of_lt hx, ← Nat.shiftLeft_add_eq_or_of_lt hy,
    ← Nat.shiftLeft_add_eq_or_of_lt hn]
  simp only [Nat.shiftLeft_eq]
  omega

theorem toNat_fieldXKK (op x : Nibble) (kk : Byte) :
    (op ++ x ++ kk : Word).toNat = op.toNat * 4096 + x.toNat * 256 + kk.toNat := by
  have hx := x.isLt; have hk := kk.isLt
  simp only [BitVec.toNat_append]
  rw [← Nat.shiftLeft_add_eq_or_of_lt hx, ← Nat.shiftLeft_add_eq_or_of_lt hk]
  simp only [Nat.shiftLeft_eq]
  omega

theorem toNat_fieldNNN (op : Nibble) (nnn : Address) :
    (op ++ nnn : Word).toNat = op.toNat * 4096 + nnn.toNat := by
  have hn := nnn.isLt
  simp only [BitVec.toNat_append]
  rw [← Nat.shiftLeft_add_eq_or_of_lt hn]
  simp only [Nat.shiftLeft_eq]

section FourNibbles

variable (op x y n : Nibble)

@[simp] theorem fieldOp_field4 : fieldOp (op ++ x ++ y ++ n : Word) = op := by
  apply BitVec.eq_of_toNat_eq
  rw [fieldOp, toNat_slice, toNat_field4]; omega

@[simp] theorem fieldX_field4 : fieldX (op ++ x ++ y ++ n : Word) = x := by
  apply BitVec.eq_of_toNat_eq
  rw [fieldX, toNat_slice, toNat_field4]; omega

@[simp] theorem fieldY_field4 : fieldY (op ++ x ++ y ++ n : Word) = y := by
  apply BitVec.eq_of_toNat_eq
  rw [fieldY, toNat_slice, toNat_field4]; omega

@[simp] theorem fieldN_field4 : fieldN (op ++ x ++ y ++ n : Word) = n := by
  apply BitVec.eq_of_toNat_eq
  rw [fieldN, toNat_slice, toNat_field4]; omega

end FourNibbles

section RegisterAndByte

variable (op x : Nibble) (kk : Byte)

@[simp] theorem fieldOp_fieldXKK : fieldOp (op ++ x ++ kk : Word) = op := by
  apply BitVec.eq_of_toNat_eq
  rw [fieldOp, toNat_slice, toNat_fieldXKK]; omega

@[simp] theorem fieldX_fieldXKK : fieldX (op ++ x ++ kk : Word) = x := by
  apply BitVec.eq_of_toNat_eq
  rw [fieldX, toNat_slice, toNat_fieldXKK]; omega

@[simp] theorem fieldKK_fieldXKK : fieldKK (op ++ x ++ kk : Word) = kk := by
  apply BitVec.eq_of_toNat_eq
  rw [fieldKK, toNat_slice, toNat_fieldXKK]; omega

end RegisterAndByte

@[simp] theorem fieldOp_fieldNNN (op : Nibble) (nnn : Address) : fieldOp (op ++ nnn : Word) = op := by
  apply BitVec.eq_of_toNat_eq
  rw [fieldOp, toNat_slice, toNat_fieldNNN]; omega

@[simp] theorem fieldNNN_fieldNNN (op : Nibble) (nnn : Address) : fieldNNN (op ++ nnn : Word) = nnn := by
  apply BitVec.eq_of_toNat_eq
  rw [fieldNNN, toNat_slice, toNat_fieldNNN]; omega

/-! ### A word is its fields -/

theorem eq_field4 (w : Word) : w = (fieldOp w ++ fieldX w ++ fieldY w ++ fieldN w : Word) := by
  apply BitVec.eq_of_toNat_eq
  rw [toNat_field4]
  simp only [fieldOp, fieldX, fieldY, fieldN, toNat_slice]
  omega

theorem eq_fieldXKK (w : Word) : w = (fieldOp w ++ fieldX w ++ fieldKK w : Word) := by
  apply BitVec.eq_of_toNat_eq
  rw [toNat_fieldXKK]
  simp only [fieldOp, fieldX, fieldKK, toNat_slice]
  omega

theorem eq_fieldNNN (w : Word) : w = (fieldOp w ++ fieldNNN w : Word) := by
  apply BitVec.eq_of_toNat_eq
  rw [toNat_fieldNNN]
  simp only [fieldOp, fieldNNN, toNat_slice]
  omega

/-! ### Big-endian bytes (R68) -/

theorem toNat_wordOfBytes (hi lo : Byte) : (wordOfBytes hi lo).toNat = hi.toNat * 256 + lo.toNat := by
  have h := lo.isLt
  simp only [wordOfBytes, BitVec.toNat_append]
  rw [← Nat.shiftLeft_add_eq_or_of_lt h, Nat.shiftLeft_eq]

@[simp] theorem wordOfBytes_slices (w : Word) :
    wordOfBytes (w.extractLsb' 8 8) (w.extractLsb' 0 8) = w := by
  apply BitVec.eq_of_toNat_eq
  rw [toNat_wordOfBytes, toNat_slice, toNat_slice]
  omega

end Sys2Proof
end

