-- ==== Sys2Proof/Laws/State.lean ====
section
/-! SUPPORT. One lemma per field per update of the state, each true by rfl, so that no later proof unfolds a
record update; and what an update leaves of the register, key and fetch reads. -/

namespace Sys2Proof.Machine

/-! ### `State.setPc` -/

@[simp] theorem State.setPc_v (s : State) (w : Word) : (s.setPc w).v = s.v := rfl
@[simp] theorem State.setPc_i (s : State) (w : Word) : (s.setPc w).i = s.i := rfl
@[simp] theorem State.setPc_pc (s : State) (w : Word) : (s.setPc w).pc = w := rfl
@[simp] theorem State.setPc_sp (s : State) (w : Word) : (s.setPc w).sp = s.sp := rfl
@[simp] theorem State.setPc_stack (s : State) (w : Word) : (s.setPc w).stack = s.stack := rfl
@[simp] theorem State.setPc_dt (s : State) (w : Word) : (s.setPc w).dt = s.dt := rfl
@[simp] theorem State.setPc_st (s : State) (w : Word) : (s.setPc w).st = s.st := rfl
@[simp] theorem State.setPc_mem (s : State) (w : Word) : (s.setPc w).mem = s.mem := rfl
@[simp] theorem State.setPc_disp (s : State) (w : Word) : (s.setPc w).disp = s.disp := rfl
@[simp] theorem State.setPc_dirty (s : State) (w : Word) : (s.setPc w).dirty = s.dirty := rfl
@[simp] theorem State.setPc_keys (s : State) (w : Word) : (s.setPc w).keys = s.keys := rfl
@[simp] theorem State.setPc_await (s : State) (w : Word) : (s.setPc w).await = s.await := rfl
@[simp] theorem State.setPc_fault (s : State) (w : Word) : (s.setPc w).fault = s.fault := rfl
@[simp] theorem State.setPc_dfc (s : State) (w : Word) : (s.setPc w).dfc = s.dfc := rfl
@[simp] theorem State.setPc_rndCount (s : State) (w : Word) : (s.setPc w).rndCount = s.rndCount := rfl
@[simp] theorem State.setPc_schedule (s : State) (w : Word) : (s.setPc w).schedule = s.schedule := rfl
@[simp] theorem State.setPc_loadOpen (s : State) (w : Word) : (s.setPc w).loadOpen = s.loadOpen := rfl
@[simp] theorem State.setPc_readV (s : State) (w : Word) (r : Reg) : (s.setPc w).readV r = s.readV r := rfl
@[simp] theorem State.setPc_readKey (s : State) (w : Word) (r : Nibble) : (s.setPc w).readKey r = s.readKey r := rfl

/-! ### `State.setI` -/

@[simp] theorem State.setI_v (s : State) (w : Word) : (s.setI w).v = s.v := rfl
@[simp] theorem State.setI_i (s : State) (w : Word) : (s.setI w).i = w := rfl
@[simp] theorem State.setI_pc (s : State) (w : Word) : (s.setI w).pc = s.pc := rfl
@[simp] theorem State.setI_sp (s : State) (w : Word) : (s.setI w).sp = s.sp := rfl
@[simp] theorem State.setI_stack (s : State) (w : Word) : (s.setI w).stack = s.stack := rfl
@[simp] theorem State.setI_dt (s : State) (w : Word) : (s.setI w).dt = s.dt := rfl
@[simp] theorem State.setI_st (s : State) (w : Word) : (s.setI w).st = s.st := rfl
@[simp] theorem State.setI_mem (s : State) (w : Word) : (s.setI w).mem = s.mem := rfl
@[simp] theorem State.setI_disp (s : State) (w : Word) : (s.setI w).disp = s.disp := rfl
@[simp] theorem State.setI_dirty (s : State) (w : Word) : (s.setI w).dirty = s.dirty := rfl
@[simp] theorem State.setI_keys (s : State) (w : Word) : (s.setI w).keys = s.keys := rfl
@[simp] theorem State.setI_await (s : State) (w : Word) : (s.setI w).await = s.await := rfl
@[simp] theorem State.setI_fault (s : State) (w : Word) : (s.setI w).fault = s.fault := rfl
@[simp] theorem State.setI_dfc (s : State) (w : Word) : (s.setI w).dfc = s.dfc := rfl
@[simp] theorem State.setI_rndCount (s : State) (w : Word) : (s.setI w).rndCount = s.rndCount := rfl
@[simp] theorem State.setI_schedule (s : State) (w : Word) : (s.setI w).schedule = s.schedule := rfl
@[simp] theorem State.setI_loadOpen (s : State) (w : Word) : (s.setI w).loadOpen = s.loadOpen := rfl
@[simp] theorem State.setI_readV (s : State) (w : Word) (r : Reg) : (s.setI w).readV r = s.readV r := rfl
@[simp] theorem State.setI_readKey (s : State) (w : Word) (r : Nibble) : (s.setI w).readKey r = s.readKey r := rfl
@[simp] theorem State.setI_fetch (s : State) (w : Word) : (s.setI w).fetch = s.fetch := rfl

/-! ### `State.setDt` -/

@[simp] theorem State.setDt_v (s : State) (b : Byte) : (s.setDt b).v = s.v := rfl
@[simp] theorem State.setDt_i (s : State) (b : Byte) : (s.setDt b).i = s.i := rfl
@[simp] theorem State.setDt_pc (s : State) (b : Byte) : (s.setDt b).pc = s.pc := rfl
@[simp] theorem State.setDt_sp (s : State) (b : Byte) : (s.setDt b).sp = s.sp := rfl
@[simp] theorem State.setDt_stack (s : State) (b : Byte) : (s.setDt b).stack = s.stack := rfl
@[simp] theorem State.setDt_dt (s : State) (b : Byte) : (s.setDt b).dt = b := rfl
@[simp] theorem State.setDt_st (s : State) (b : Byte) : (s.setDt b).st = s.st := rfl
@[simp] theorem State.setDt_mem (s : State) (b : Byte) : (s.setDt b).mem = s.mem := rfl
@[simp] theorem State.setDt_disp (s : State) (b : Byte) : (s.setDt b).disp = s.disp := rfl
@[simp] theorem State.setDt_dirty (s : State) (b : Byte) : (s.setDt b).dirty = s.dirty := rfl
@[simp] theorem State.setDt_keys (s : State) (b : Byte) : (s.setDt b).keys = s.keys := rfl
@[simp] theorem State.setDt_await (s : State) (b : Byte) : (s.setDt b).await = s.await := rfl
@[simp] theorem State.setDt_fault (s : State) (b : Byte) : (s.setDt b).fault = s.fault := rfl
@[simp] theorem State.setDt_dfc (s : State) (b : Byte) : (s.setDt b).dfc = s.dfc := rfl
@[simp] theorem State.setDt_rndCount (s : State) (b : Byte) : (s.setDt b).rndCount = s.rndCount := rfl
@[simp] theorem State.setDt_schedule (s : State) (b : Byte) : (s.setDt b).schedule = s.schedule := rfl
@[simp] theorem State.setDt_loadOpen (s : State) (b : Byte) : (s.setDt b).loadOpen = s.loadOpen := rfl
@[simp] theorem State.setDt_readV (s : State) (b : Byte) (r : Reg) : (s.setDt b).readV r = s.readV r := rfl
@[simp] theorem State.setDt_readKey (s : State) (b : Byte) (r : Nibble) : (s.setDt b).readKey r = s.readKey r := rfl
@[simp] theorem State.setDt_fetch (s : State) (b : Byte) : (s.setDt b).fetch = s.fetch := rfl

/-! ### `State.setSt` -/

@[simp] theorem State.setSt_v (s : State) (b : Byte) : (s.setSt b).v = s.v := rfl
@[simp] theorem State.setSt_i (s : State) (b : Byte) : (s.setSt b).i = s.i := rfl
@[simp] theorem State.setSt_pc (s : State) (b : Byte) : (s.setSt b).pc = s.pc := rfl
@[simp] theorem State.setSt_sp (s : State) (b : Byte) : (s.setSt b).sp = s.sp := rfl
@[simp] theorem State.setSt_stack (s : State) (b : Byte) : (s.setSt b).stack = s.stack := rfl
@[simp] theorem State.setSt_dt (s : State) (b : Byte) : (s.setSt b).dt = s.dt := rfl
@[simp] theorem State.setSt_st (s : State) (b : Byte) : (s.setSt b).st = b := rfl
@[simp] theorem State.setSt_mem (s : State) (b : Byte) : (s.setSt b).mem = s.mem := rfl
@[simp] theorem State.setSt_disp (s : State) (b : Byte) : (s.setSt b).disp = s.disp := rfl
@[simp] theorem State.setSt_dirty (s : State) (b : Byte) : (s.setSt b).dirty = s.dirty := rfl
@[simp] theorem State.setSt_keys (s : State) (b : Byte) : (s.setSt b).keys = s.keys := rfl
@[simp] theorem State.setSt_await (s : State) (b : Byte) : (s.setSt b).await = s.await := rfl
@[simp] theorem State.setSt_fault (s : State) (b : Byte) : (s.setSt b).fault = s.fault := rfl
@[simp] theorem State.setSt_dfc (s : State) (b : Byte) : (s.setSt b).dfc = s.dfc := rfl
@[simp] theorem State.setSt_rndCount (s : State) (b : Byte) : (s.setSt b).rndCount = s.rndCount := rfl
@[simp] theorem State.setSt_schedule (s : State) (b : Byte) : (s.setSt b).schedule = s.schedule := rfl
@[simp] theorem State.setSt_loadOpen (s : State) (b : Byte) : (s.setSt b).loadOpen = s.loadOpen := rfl
@[simp] theorem State.setSt_readV (s : State) (b : Byte) (r : Reg) : (s.setSt b).readV r = s.readV r := rfl
@[simp] theorem State.setSt_readKey (s : State) (b : Byte) (r : Nibble) : (s.setSt b).readKey r = s.readKey r := rfl
@[simp] theorem State.setSt_fetch (s : State) (b : Byte) : (s.setSt b).fetch = s.fetch := rfl

/-! ### `State.setMem` -/

@[simp] theorem State.setMem_v (s : State) (m : Memory) : (s.setMem m).v = s.v := rfl
@[simp] theorem State.setMem_i (s : State) (m : Memory) : (s.setMem m).i = s.i := rfl
@[simp] theorem State.setMem_pc (s : State) (m : Memory) : (s.setMem m).pc = s.pc := rfl
@[simp] theorem State.setMem_sp (s : State) (m : Memory) : (s.setMem m).sp = s.sp := rfl
@[simp] theorem State.setMem_stack (s : State) (m : Memory) : (s.setMem m).stack = s.stack := rfl
@[simp] theorem State.setMem_dt (s : State) (m : Memory) : (s.setMem m).dt = s.dt := rfl
@[simp] theorem State.setMem_st (s : State) (m : Memory) : (s.setMem m).st = s.st := rfl
@[simp] theorem State.setMem_mem (s : State) (m : Memory) : (s.setMem m).mem = m := rfl
@[simp] theorem State.setMem_disp (s : State) (m : Memory) : (s.setMem m).disp = s.disp := rfl
@[simp] theorem State.setMem_dirty (s : State) (m : Memory) : (s.setMem m).dirty = s.dirty := rfl
@[simp] theorem State.setMem_keys (s : State) (m : Memory) : (s.setMem m).keys = s.keys := rfl
@[simp] theorem State.setMem_await (s : State) (m : Memory) : (s.setMem m).await = s.await := rfl
@[simp] theorem State.setMem_fault (s : State) (m : Memory) : (s.setMem m).fault = s.fault := rfl
@[simp] theorem State.setMem_dfc (s : State) (m : Memory) : (s.setMem m).dfc = s.dfc := rfl
@[simp] theorem State.setMem_rndCount (s : State) (m : Memory) : (s.setMem m).rndCount = s.rndCount := rfl
@[simp] theorem State.setMem_schedule (s : State) (m : Memory) : (s.setMem m).schedule = s.schedule := rfl
@[simp] theorem State.setMem_loadOpen (s : State) (m : Memory) : (s.setMem m).loadOpen = s.loadOpen := rfl
@[simp] theorem State.setMem_readV (s : State) (m : Memory) (r : Reg) : (s.setMem m).readV r = s.readV r := rfl
@[simp] theorem State.setMem_readKey (s : State) (m : Memory) (r : Nibble) : (s.setMem m).readKey r = s.readKey r := rfl

/-! ### `State.setDisp` -/

@[simp] theorem State.setDisp_v (s : State) (d : Display) (b : Bool) : (s.setDisp d b).v = s.v := rfl
@[simp] theorem State.setDisp_i (s : State) (d : Display) (b : Bool) : (s.setDisp d b).i = s.i := rfl
@[simp] theorem State.setDisp_pc (s : State) (d : Display) (b : Bool) : (s.setDisp d b).pc = s.pc := rfl
@[simp] theorem State.setDisp_sp (s : State) (d : Display) (b : Bool) : (s.setDisp d b).sp = s.sp := rfl
@[simp] theorem State.setDisp_stack (s : State) (d : Display) (b : Bool) : (s.setDisp d b).stack = s.stack := rfl
@[simp] theorem State.setDisp_dt (s : State) (d : Display) (b : Bool) : (s.setDisp d b).dt = s.dt := rfl
@[simp] theorem State.setDisp_st (s : State) (d : Display) (b : Bool) : (s.setDisp d b).st = s.st := rfl
@[simp] theorem State.setDisp_mem (s : State) (d : Display) (b : Bool) : (s.setDisp d b).mem = s.mem := rfl
@[simp] theorem State.setDisp_disp (s : State) (d : Display) (b : Bool) : (s.setDisp d b).disp = d := rfl
@[simp] theorem State.setDisp_dirty (s : State) (d : Display) (b : Bool) : (s.setDisp d b).dirty = b := rfl
@[simp] theorem State.setDisp_keys (s : State) (d : Display) (b : Bool) : (s.setDisp d b).keys = s.keys := rfl
@[simp] theorem State.setDisp_await (s : State) (d : Display) (b : Bool) : (s.setDisp d b).await = s.await := rfl
@[simp] theorem State.setDisp_fault (s : State) (d : Display) (b : Bool) : (s.setDisp d b).fault = s.fault := rfl
@[simp] theorem State.setDisp_dfc (s : State) (d : Display) (b : Bool) : (s.setDisp d b).dfc = s.dfc := rfl
@[simp] theorem State.setDisp_rndCount (s : State) (d : Display) (b : Bool) : (s.setDisp d b).rndCount = s.rndCount := rfl
@[simp] theorem State.setDisp_schedule (s : State) (d : Display) (b : Bool) : (s.setDisp d b).schedule = s.schedule := rfl
@[simp] theorem State.setDisp_loadOpen (s : State) (d : Display) (b : Bool) : (s.setDisp d b).loadOpen = s.loadOpen := rfl
@[simp] theorem State.setDisp_readV (s : State) (d : Display) (b : Bool) (r : Reg) : (s.setDisp d b).readV r = s.readV r := rfl
@[simp] theorem State.setDisp_readKey (s : State) (d : Display) (b : Bool) (r : Nibble) : (s.setDisp d b).readKey r = s.readKey r := rfl
@[simp] theorem State.setDisp_fetch (s : State) (d : Display) (b : Bool) : (s.setDisp d b).fetch = s.fetch := rfl

/-! ### `State.setKey` -/

@[simp] theorem State.setKey_v (s : State) (k : Nibble) (p : Bool) : (s.setKey k p).v = s.v := rfl
@[simp] theorem State.setKey_i (s : State) (k : Nibble) (p : Bool) : (s.setKey k p).i = s.i := rfl
@[simp] theorem State.setKey_pc (s : State) (k : Nibble) (p : Bool) : (s.setKey k p).pc = s.pc := rfl
@[simp] theorem State.setKey_sp (s : State) (k : Nibble) (p : Bool) : (s.setKey k p).sp = s.sp := rfl
@[simp] theorem State.setKey_stack (s : State) (k : Nibble) (p : Bool) : (s.setKey k p).stack = s.stack := rfl
@[simp] theorem State.setKey_dt (s : State) (k : Nibble) (p : Bool) : (s.setKey k p).dt = s.dt := rfl
@[simp] theorem State.setKey_st (s : State) (k : Nibble) (p : Bool) : (s.setKey k p).st = s.st := rfl
@[simp] theorem State.setKey_mem (s : State) (k : Nibble) (p : Bool) : (s.setKey k p).mem = s.mem := rfl
@[simp] theorem State.setKey_disp (s : State) (k : Nibble) (p : Bool) : (s.setKey k p).disp = s.disp := rfl
@[simp] theorem State.setKey_dirty (s : State) (k : Nibble) (p : Bool) : (s.setKey k p).dirty = s.dirty := rfl
@[simp] theorem State.setKey_keys (s : State) (k : Nibble) (p : Bool) : (s.setKey k p).keys = s.keys.set k.toNat p k.isLt := rfl
@[simp] theorem State.setKey_await (s : State) (k : Nibble) (p : Bool) : (s.setKey k p).await = s.await := rfl
@[simp] theorem State.setKey_fault (s : State) (k : Nibble) (p : Bool) : (s.setKey k p).fault = s.fault := rfl
@[simp] theorem State.setKey_dfc (s : State) (k : Nibble) (p : Bool) : (s.setKey k p).dfc = s.dfc := rfl
@[simp] theorem State.setKey_rndCount (s : State) (k : Nibble) (p : Bool) : (s.setKey k p).rndCount = s.rndCount := rfl
@[simp] theorem State.setKey_schedule (s : State) (k : Nibble) (p : Bool) : (s.setKey k p).schedule = s.schedule := rfl
@[simp] theorem State.setKey_loadOpen (s : State) (k : Nibble) (p : Bool) : (s.setKey k p).loadOpen = s.loadOpen := rfl
@[simp] theorem State.setKey_readV (s : State) (k : Nibble) (p : Bool) (r : Reg) : (s.setKey k p).readV r = s.readV r := rfl
@[simp] theorem State.setKey_fetch (s : State) (k : Nibble) (p : Bool) : (s.setKey k p).fetch = s.fetch := rfl

/-! ### `State.setAwait` -/

@[simp] theorem State.setAwait_v (s : State) (a : Await) : (s.setAwait a).v = s.v := rfl
@[simp] theorem State.setAwait_i (s : State) (a : Await) : (s.setAwait a).i = s.i := rfl
@[simp] theorem State.setAwait_pc (s : State) (a : Await) : (s.setAwait a).pc = s.pc := rfl
@[simp] theorem State.setAwait_sp (s : State) (a : Await) : (s.setAwait a).sp = s.sp := rfl
@[simp] theorem State.setAwait_stack (s : State) (a : Await) : (s.setAwait a).stack = s.stack := rfl
@[simp] theorem State.setAwait_dt (s : State) (a : Await) : (s.setAwait a).dt = s.dt := rfl
@[simp] theorem State.setAwait_st (s : State) (a : Await) : (s.setAwait a).st = s.st := rfl
@[simp] theorem State.setAwait_mem (s : State) (a : Await) : (s.setAwait a).mem = s.mem := rfl
@[simp] theorem State.setAwait_disp (s : State) (a : Await) : (s.setAwait a).disp = s.disp := rfl
@[simp] theorem State.setAwait_dirty (s : State) (a : Await) : (s.setAwait a).dirty = s.dirty := rfl
@[simp] theorem State.setAwait_keys (s : State) (a : Await) : (s.setAwait a).keys = s.keys := rfl
@[simp] theorem State.setAwait_await (s : State) (a : Await) : (s.setAwait a).await = a := rfl
@[simp] theorem State.setAwait_fault (s : State) (a : Await) : (s.setAwait a).fault = s.fault := rfl
@[simp] theorem State.setAwait_dfc (s : State) (a : Await) : (s.setAwait a).dfc = s.dfc := rfl
@[simp] theorem State.setAwait_rndCount (s : State) (a : Await) : (s.setAwait a).rndCount = s.rndCount := rfl
@[simp] theorem State.setAwait_schedule (s : State) (a : Await) : (s.setAwait a).schedule = s.schedule := rfl
@[simp] theorem State.setAwait_loadOpen (s : State) (a : Await) : (s.setAwait a).loadOpen = s.loadOpen := rfl
@[simp] theorem State.setAwait_readV (s : State) (a : Await) (r : Reg) : (s.setAwait a).readV r = s.readV r := rfl
@[simp] theorem State.setAwait_readKey (s : State) (a : Await) (r : Nibble) : (s.setAwait a).readKey r = s.readKey r := rfl
@[simp] theorem State.setAwait_fetch (s : State) (a : Await) : (s.setAwait a).fetch = s.fetch := rfl

/-! ### `State.countSample` -/

@[simp] theorem State.countSample_v (s : State) : s.countSample.v = s.v := rfl
@[simp] theorem State.countSample_i (s : State) : s.countSample.i = s.i := rfl
@[simp] theorem State.countSample_pc (s : State) : s.countSample.pc = s.pc := rfl
@[simp] theorem State.countSample_sp (s : State) : s.countSample.sp = s.sp := rfl
@[simp] theorem State.countSample_stack (s : State) : s.countSample.stack = s.stack := rfl
@[simp] theorem State.countSample_dt (s : State) : s.countSample.dt = s.dt := rfl
@[simp] theorem State.countSample_st (s : State) : s.countSample.st = s.st := rfl
@[simp] theorem State.countSample_mem (s : State) : s.countSample.mem = s.mem := rfl
@[simp] theorem State.countSample_disp (s : State) : s.countSample.disp = s.disp := rfl
@[simp] theorem State.countSample_dirty (s : State) : s.countSample.dirty = s.dirty := rfl
@[simp] theorem State.countSample_keys (s : State) : s.countSample.keys = s.keys := rfl
@[simp] theorem State.countSample_await (s : State) : s.countSample.await = s.await := rfl
@[simp] theorem State.countSample_fault (s : State) : s.countSample.fault = s.fault := rfl
@[simp] theorem State.countSample_dfc (s : State) : s.countSample.dfc = s.dfc := rfl
@[simp] theorem State.countSample_rndCount (s : State) : s.countSample.rndCount = s.rndCount + 1 := rfl
@[simp] theorem State.countSample_schedule (s : State) : s.countSample.schedule = s.schedule := rfl
@[simp] theorem State.countSample_loadOpen (s : State) : s.countSample.loadOpen = s.loadOpen := rfl
@[simp] theorem State.countSample_readV (s : State) (r : Reg) : s.countSample.readV r = s.readV r := rfl
@[simp] theorem State.countSample_readKey (s : State) (r : Nibble) : s.countSample.readKey r = s.readKey r := rfl
@[simp] theorem State.countSample_fetch (s : State) : s.countSample.fetch = s.fetch := rfl

/-! ### `State.closeLoad` -/

@[simp] theorem State.closeLoad_v (s : State) : s.closeLoad.v = s.v := rfl
@[simp] theorem State.closeLoad_i (s : State) : s.closeLoad.i = s.i := rfl
@[simp] theorem State.closeLoad_pc (s : State) : s.closeLoad.pc = s.pc := rfl
@[simp] theorem State.closeLoad_sp (s : State) : s.closeLoad.sp = s.sp := rfl
@[simp] theorem State.closeLoad_stack (s : State) : s.closeLoad.stack = s.stack := rfl
@[simp] theorem State.closeLoad_dt (s : State) : s.closeLoad.dt = s.dt := rfl
@[simp] theorem State.closeLoad_st (s : State) : s.closeLoad.st = s.st := rfl
@[simp] theorem State.closeLoad_mem (s : State) : s.closeLoad.mem = s.mem := rfl
@[simp] theorem State.closeLoad_disp (s : State) : s.closeLoad.disp = s.disp := rfl
@[simp] theorem State.closeLoad_dirty (s : State) : s.closeLoad.dirty = s.dirty := rfl
@[simp] theorem State.closeLoad_keys (s : State) : s.closeLoad.keys = s.keys := rfl
@[simp] theorem State.closeLoad_await (s : State) : s.closeLoad.await = s.await := rfl
@[simp] theorem State.closeLoad_fault (s : State) : s.closeLoad.fault = s.fault := rfl
@[simp] theorem State.closeLoad_dfc (s : State) : s.closeLoad.dfc = s.dfc := rfl
@[simp] theorem State.closeLoad_rndCount (s : State) : s.closeLoad.rndCount = s.rndCount := rfl
@[simp] theorem State.closeLoad_schedule (s : State) : s.closeLoad.schedule = s.schedule := rfl
@[simp] theorem State.closeLoad_loadOpen (s : State) : s.closeLoad.loadOpen = false := rfl
@[simp] theorem State.closeLoad_readV (s : State) (r : Reg) : s.closeLoad.readV r = s.readV r := rfl
@[simp] theorem State.closeLoad_readKey (s : State) (r : Nibble) : s.closeLoad.readKey r = s.readKey r := rfl
@[simp] theorem State.closeLoad_fetch (s : State) : s.closeLoad.fetch = s.fetch := rfl

/-! ### `State.setSchedule` -/

@[simp] theorem State.setSchedule_v (s : State) (l : List Strobe) : (s.setSchedule l).v = s.v := rfl
@[simp] theorem State.setSchedule_i (s : State) (l : List Strobe) : (s.setSchedule l).i = s.i := rfl
@[simp] theorem State.setSchedule_pc (s : State) (l : List Strobe) : (s.setSchedule l).pc = s.pc := rfl
@[simp] theorem State.setSchedule_sp (s : State) (l : List Strobe) : (s.setSchedule l).sp = s.sp := rfl
@[simp] theorem State.setSchedule_stack (s : State) (l : List Strobe) : (s.setSchedule l).stack = s.stack := rfl
@[simp] theorem State.setSchedule_dt (s : State) (l : List Strobe) : (s.setSchedule l).dt = s.dt := rfl
@[simp] theorem State.setSchedule_st (s : State) (l : List Strobe) : (s.setSchedule l).st = s.st := rfl
@[simp] theorem State.setSchedule_mem (s : State) (l : List Strobe) : (s.setSchedule l).mem = s.mem := rfl
@[simp] theorem State.setSchedule_disp (s : State) (l : List Strobe) : (s.setSchedule l).disp = s.disp := rfl
@[simp] theorem State.setSchedule_dirty (s : State) (l : List Strobe) : (s.setSchedule l).dirty = s.dirty := rfl
@[simp] theorem State.setSchedule_keys (s : State) (l : List Strobe) : (s.setSchedule l).keys = s.keys := rfl
@[simp] theorem State.setSchedule_await (s : State) (l : List Strobe) : (s.setSchedule l).await = s.await := rfl
@[simp] theorem State.setSchedule_fault (s : State) (l : List Strobe) : (s.setSchedule l).fault = s.fault := rfl
@[simp] theorem State.setSchedule_dfc (s : State) (l : List Strobe) : (s.setSchedule l).dfc = s.dfc := rfl
@[simp] theorem State.setSchedule_rndCount (s : State) (l : List Strobe) : (s.setSchedule l).rndCount = s.rndCount := rfl
@[simp] theorem State.setSchedule_schedule (s : State) (l : List Strobe) : (s.setSchedule l).schedule = l := rfl
@[simp] theorem State.setSchedule_loadOpen (s : State) (l : List Strobe) : (s.setSchedule l).loadOpen = s.loadOpen := rfl
@[simp] theorem State.setSchedule_readV (s : State) (l : List Strobe) (r : Reg) : (s.setSchedule l).readV r = s.readV r := rfl
@[simp] theorem State.setSchedule_readKey (s : State) (l : List Strobe) (r : Nibble) : (s.setSchedule l).readKey r = s.readKey r := rfl
@[simp] theorem State.setSchedule_fetch (s : State) (l : List Strobe) : (s.setSchedule l).fetch = s.fetch := rfl

/-! ### `State.setV` -/

@[simp] theorem State.setV_v (s : State) (x : Reg) (b : Byte) : (s.setV x b).v = s.v.set x.toNat b x.isLt := rfl
@[simp] theorem State.setV_i (s : State) (x : Reg) (b : Byte) : (s.setV x b).i = s.i := rfl
@[simp] theorem State.setV_pc (s : State) (x : Reg) (b : Byte) : (s.setV x b).pc = s.pc := rfl
@[simp] theorem State.setV_sp (s : State) (x : Reg) (b : Byte) : (s.setV x b).sp = s.sp := rfl
@[simp] theorem State.setV_stack (s : State) (x : Reg) (b : Byte) : (s.setV x b).stack = s.stack := rfl
@[simp] theorem State.setV_dt (s : State) (x : Reg) (b : Byte) : (s.setV x b).dt = s.dt := rfl
@[simp] theorem State.setV_st (s : State) (x : Reg) (b : Byte) : (s.setV x b).st = s.st := rfl
@[simp] theorem State.setV_mem (s : State) (x : Reg) (b : Byte) : (s.setV x b).mem = s.mem := rfl
@[simp] theorem State.setV_disp (s : State) (x : Reg) (b : Byte) : (s.setV x b).disp = s.disp := rfl
@[simp] theorem State.setV_dirty (s : State) (x : Reg) (b : Byte) : (s.setV x b).dirty = s.dirty := rfl
@[simp] theorem State.setV_keys (s : State) (x : Reg) (b : Byte) : (s.setV x b).keys = s.keys := rfl
@[simp] theorem State.setV_await (s : State) (x : Reg) (b : Byte) : (s.setV x b).await = s.await := rfl
@[simp] theorem State.setV_fault (s : State) (x : Reg) (b : Byte) : (s.setV x b).fault = s.fault := rfl
@[simp] theorem State.setV_dfc (s : State) (x : Reg) (b : Byte) : (s.setV x b).dfc = s.dfc := rfl
@[simp] theorem State.setV_rndCount (s : State) (x : Reg) (b : Byte) : (s.setV x b).rndCount = s.rndCount := rfl
@[simp] theorem State.setV_schedule (s : State) (x : Reg) (b : Byte) : (s.setV x b).schedule = s.schedule := rfl
@[simp] theorem State.setV_loadOpen (s : State) (x : Reg) (b : Byte) : (s.setV x b).loadOpen = s.loadOpen := rfl
@[simp] theorem State.setV_readKey (s : State) (x : Reg) (b : Byte) (r : Nibble) : (s.setV x b).readKey r = s.readKey r := rfl
@[simp] theorem State.setV_fetch (s : State) (x : Reg) (b : Byte) : (s.setV x b).fetch = s.fetch := rfl

/-! ### `State.advance` -/

@[simp] theorem State.advance_v (s : State) : s.advance.v = s.v := rfl
@[simp] theorem State.advance_i (s : State) : s.advance.i = s.i := rfl
@[simp] theorem State.advance_pc (s : State) : s.advance.pc = s.pc + 2 := rfl
@[simp] theorem State.advance_sp (s : State) : s.advance.sp = s.sp := rfl
@[simp] theorem State.advance_stack (s : State) : s.advance.stack = s.stack := rfl
@[simp] theorem State.advance_dt (s : State) : s.advance.dt = s.dt := rfl
@[simp] theorem State.advance_st (s : State) : s.advance.st = s.st := rfl
@[simp] theorem State.advance_mem (s : State) : s.advance.mem = s.mem := rfl
@[simp] theorem State.advance_disp (s : State) : s.advance.disp = s.disp := rfl
@[simp] theorem State.advance_dirty (s : State) : s.advance.dirty = s.dirty := rfl
@[simp] theorem State.advance_keys (s : State) : s.advance.keys = s.keys := rfl
@[simp] theorem State.advance_await (s : State) : s.advance.await = s.await := rfl
@[simp] theorem State.advance_fault (s : State) : s.advance.fault = s.fault := rfl
@[simp] theorem State.advance_dfc (s : State) : s.advance.dfc = s.dfc := rfl
@[simp] theorem State.advance_rndCount (s : State) : s.advance.rndCount = s.rndCount := rfl
@[simp] theorem State.advance_schedule (s : State) : s.advance.schedule = s.schedule := rfl
@[simp] theorem State.advance_loadOpen (s : State) : s.advance.loadOpen = s.loadOpen := rfl
@[simp] theorem State.advance_readV (s : State) (r : Reg) : s.advance.readV r = s.readV r := rfl
@[simp] theorem State.advance_readKey (s : State) (r : Nibble) : s.advance.readKey r = s.readKey r := rfl

/-! ### `State.skipIf` -/

@[simp] theorem State.skipIf_v (s : State) (c : Bool) : (s.skipIf c).v = s.v := rfl
@[simp] theorem State.skipIf_i (s : State) (c : Bool) : (s.skipIf c).i = s.i := rfl
@[simp] theorem State.skipIf_pc (s : State) (c : Bool) : (s.skipIf c).pc = if c then s.pc + 4 else s.pc + 2 := rfl
@[simp] theorem State.skipIf_sp (s : State) (c : Bool) : (s.skipIf c).sp = s.sp := rfl
@[simp] theorem State.skipIf_stack (s : State) (c : Bool) : (s.skipIf c).stack = s.stack := rfl
@[simp] theorem State.skipIf_dt (s : State) (c : Bool) : (s.skipIf c).dt = s.dt := rfl
@[simp] theorem State.skipIf_st (s : State) (c : Bool) : (s.skipIf c).st = s.st := rfl
@[simp] theorem State.skipIf_mem (s : State) (c : Bool) : (s.skipIf c).mem = s.mem := rfl
@[simp] theorem State.skipIf_disp (s : State) (c : Bool) : (s.skipIf c).disp = s.disp := rfl
@[simp] theorem State.skipIf_dirty (s : State) (c : Bool) : (s.skipIf c).dirty = s.dirty := rfl
@[simp] theorem State.skipIf_keys (s : State) (c : Bool) : (s.skipIf c).keys = s.keys := rfl
@[simp] theorem State.skipIf_await (s : State) (c : Bool) : (s.skipIf c).await = s.await := rfl
@[simp] theorem State.skipIf_fault (s : State) (c : Bool) : (s.skipIf c).fault = s.fault := rfl
@[simp] theorem State.skipIf_dfc (s : State) (c : Bool) : (s.skipIf c).dfc = s.dfc := rfl
@[simp] theorem State.skipIf_rndCount (s : State) (c : Bool) : (s.skipIf c).rndCount = s.rndCount := rfl
@[simp] theorem State.skipIf_schedule (s : State) (c : Bool) : (s.skipIf c).schedule = s.schedule := rfl
@[simp] theorem State.skipIf_loadOpen (s : State) (c : Bool) : (s.skipIf c).loadOpen = s.loadOpen := rfl
@[simp] theorem State.skipIf_readV (s : State) (c : Bool) (r : Reg) : (s.skipIf c).readV r = s.readV r := rfl
@[simp] theorem State.skipIf_readKey (s : State) (c : Bool) (r : Nibble) : (s.skipIf c).readKey r = s.readKey r := rfl

/-! ### `State.dropTop` -/

@[simp] theorem State.dropTop_v (s : State) : s.dropTop.v = s.v := rfl
@[simp] theorem State.dropTop_i (s : State) : s.dropTop.i = s.i := rfl
@[simp] theorem State.dropTop_pc (s : State) : s.dropTop.pc = s.pc := rfl
@[simp] theorem State.dropTop_sp (s : State) : s.dropTop.sp = s.sp - 1 := rfl
@[simp] theorem State.dropTop_stack (s : State) : s.dropTop.stack = s.stack := rfl
@[simp] theorem State.dropTop_dt (s : State) : s.dropTop.dt = s.dt := rfl
@[simp] theorem State.dropTop_st (s : State) : s.dropTop.st = s.st := rfl
@[simp] theorem State.dropTop_mem (s : State) : s.dropTop.mem = s.mem := rfl
@[simp] theorem State.dropTop_disp (s : State) : s.dropTop.disp = s.disp := rfl
@[simp] theorem State.dropTop_dirty (s : State) : s.dropTop.dirty = s.dirty := rfl
@[simp] theorem State.dropTop_keys (s : State) : s.dropTop.keys = s.keys := rfl
@[simp] theorem State.dropTop_await (s : State) : s.dropTop.await = s.await := rfl
@[simp] theorem State.dropTop_fault (s : State) : s.dropTop.fault = s.fault := rfl
@[simp] theorem State.dropTop_dfc (s : State) : s.dropTop.dfc = s.dfc := rfl
@[simp] theorem State.dropTop_rndCount (s : State) : s.dropTop.rndCount = s.rndCount := rfl
@[simp] theorem State.dropTop_schedule (s : State) : s.dropTop.schedule = s.schedule := rfl
@[simp] theorem State.dropTop_loadOpen (s : State) : s.dropTop.loadOpen = s.loadOpen := rfl
@[simp] theorem State.dropTop_readV (s : State) (r : Reg) : s.dropTop.readV r = s.readV r := rfl
@[simp] theorem State.dropTop_readKey (s : State) (r : Nibble) : s.dropTop.readKey r = s.readKey r := rfl
@[simp] theorem State.dropTop_fetch (s : State) : s.dropTop.fetch = s.fetch := rfl

/-! ### `State.takeFault` -/

@[simp] theorem State.takeFault_v (s : State) (t : Trap) : (s.takeFault t).v = s.v := rfl
@[simp] theorem State.takeFault_i (s : State) (t : Trap) : (s.takeFault t).i = s.i := rfl
@[simp] theorem State.takeFault_pc (s : State) (t : Trap) : (s.takeFault t).pc = s.pc := rfl
@[simp] theorem State.takeFault_sp (s : State) (t : Trap) : (s.takeFault t).sp = s.sp := rfl
@[simp] theorem State.takeFault_stack (s : State) (t : Trap) : (s.takeFault t).stack = s.stack := rfl
@[simp] theorem State.takeFault_dt (s : State) (t : Trap) : (s.takeFault t).dt = s.dt := rfl
@[simp] theorem State.takeFault_st (s : State) (t : Trap) : (s.takeFault t).st = s.st := rfl
@[simp] theorem State.takeFault_mem (s : State) (t : Trap) : (s.takeFault t).mem = s.mem := rfl
@[simp] theorem State.takeFault_disp (s : State) (t : Trap) : (s.takeFault t).disp = s.disp := rfl
@[simp] theorem State.takeFault_dirty (s : State) (t : Trap) : (s.takeFault t).dirty = s.dirty := rfl
@[simp] theorem State.takeFault_keys (s : State) (t : Trap) : (s.takeFault t).keys = s.keys := rfl
@[simp] theorem State.takeFault_await (s : State) (t : Trap) : (s.takeFault t).await = s.await := rfl
@[simp] theorem State.takeFault_fault (s : State) (t : Trap) : (s.takeFault t).fault = some ⟨t.cause, t.info, s.pc⟩ := rfl
@[simp] theorem State.takeFault_dfc (s : State) (t : Trap) : (s.takeFault t).dfc = s.dfc := rfl
@[simp] theorem State.takeFault_rndCount (s : State) (t : Trap) : (s.takeFault t).rndCount = s.rndCount := rfl
@[simp] theorem State.takeFault_schedule (s : State) (t : Trap) : (s.takeFault t).schedule = s.schedule := rfl
@[simp] theorem State.takeFault_loadOpen (s : State) (t : Trap) : (s.takeFault t).loadOpen = s.loadOpen := rfl
@[simp] theorem State.takeFault_readV (s : State) (t : Trap) (r : Reg) : (s.takeFault t).readV r = s.readV r := rfl
@[simp] theorem State.takeFault_readKey (s : State) (t : Trap) (r : Nibble) : (s.takeFault t).readKey r = s.readKey r := rfl
@[simp] theorem State.takeFault_fetch (s : State) (t : Trap) : (s.takeFault t).fetch = s.fetch := rfl

/-! ### `State.decodeFault` -/

@[simp] theorem State.decodeFault_v (s : State) : s.decodeFault.v = s.v := rfl
@[simp] theorem State.decodeFault_i (s : State) : s.decodeFault.i = s.i := rfl
@[simp] theorem State.decodeFault_pc (s : State) : s.decodeFault.pc = s.pc + 2 := rfl
@[simp] theorem State.decodeFault_sp (s : State) : s.decodeFault.sp = s.sp := rfl
@[simp] theorem State.decodeFault_stack (s : State) : s.decodeFault.stack = s.stack := rfl
@[simp] theorem State.decodeFault_dt (s : State) : s.decodeFault.dt = s.dt := rfl
@[simp] theorem State.decodeFault_st (s : State) : s.decodeFault.st = s.st := rfl
@[simp] theorem State.decodeFault_mem (s : State) : s.decodeFault.mem = s.mem := rfl
@[simp] theorem State.decodeFault_disp (s : State) : s.decodeFault.disp = s.disp := rfl
@[simp] theorem State.decodeFault_dirty (s : State) : s.decodeFault.dirty = s.dirty := rfl
@[simp] theorem State.decodeFault_keys (s : State) : s.decodeFault.keys = s.keys := rfl
@[simp] theorem State.decodeFault_await (s : State) : s.decodeFault.await = s.await := rfl
@[simp] theorem State.decodeFault_fault (s : State) : s.decodeFault.fault = s.fault := rfl
@[simp] theorem State.decodeFault_dfc (s : State) : s.decodeFault.dfc = dfcIncrement Config.dfcWidth s.dfc := rfl
@[simp] theorem State.decodeFault_rndCount (s : State) : s.decodeFault.rndCount = s.rndCount := rfl
@[simp] theorem State.decodeFault_schedule (s : State) : s.decodeFault.schedule = s.schedule := rfl
@[simp] theorem State.decodeFault_loadOpen (s : State) : s.decodeFault.loadOpen = s.loadOpen := rfl
@[simp] theorem State.decodeFault_readV (s : State) (r : Reg) : s.decodeFault.readV r = s.readV r := rfl
@[simp] theorem State.decodeFault_readKey (s : State) (r : Nibble) : s.decodeFault.readKey r = s.readKey r := rfl

end Sys2Proof.Machine
end

