-- ==== Sys2Proof/Laws/Display.lean ====
section
/-! SUPPORT. Pixels: a read after a write (R31), and what one sprite bit does (R162). -/

namespace Sys2Proof.Machine

/-- A pixel write is seen at its pixel and nowhere else. -/
theorem pixel_setPixel (d : Display) (r r' : Fin 32) (c c' : Fin 64) (b : Bool) :
    pixel (setPixel d r c b) r' c' = if r' = r ∧ c' = c then b else pixel d r' c' := by
  by_cases hr : r' = r
  · subst hr
    by_cases hc : c' = c
    · subst hc; simp [pixel, setPixel]
    · have hne : c.val ≠ c'.val := fun e => hc (Fin.ext e.symm)
      simp [pixel, setPixel, hc, Vector.getElem_set_ne _ _ hne]
  · have hne : r.val ≠ r'.val := fun e => hr (Fin.ext e.symm)
    simp [pixel, setPixel, hr, Vector.getElem_set_ne _ _ hne]

/-- A display is its pixels. -/
theorem display_ext {d e : Display} (h : ∀ r c, pixel d r c = pixel e r c) : d = e := by
  apply Vector.ext
  intro r hr
  apply Vector.ext
  intro c hc
  exact h ⟨r, hr⟩ ⟨c, hc⟩

@[simp] theorem pixel_blankDisplay (r : Fin 32) (c : Fin 64) : pixel blankDisplay r c = false := by
  simp [pixel, blankDisplay]

@[simp] theorem Draw.plot_toggled (d : Draw) (r : Fin 32) (c : Fin 64) : (d.plot r c).toggled = true := rfl

@[simp] theorem Draw.plot_collision (d : Draw) (r : Fin 32) (c : Fin 64) :
    (d.plot r c).collision = (d.collision || pixel d.disp r c) := rfl

theorem Draw.plot_pixel (d : Draw) (r r' : Fin 32) (c c' : Fin 64) :
    pixel (d.plot r c).disp r' c' = if r' = r ∧ c' = c then !pixel d.disp r c else pixel d.disp r' c' :=
  pixel_setPixel _ _ _ _ _ _

end Sys2Proof.Machine
end

