-- ==== Sys2Proof/Laws/Memory.lean ====
section
/-! SUPPORT. Memory: a read after a write, and that every memory operation keeps the canonical form. -/

namespace Sys2Proof.Machine

theorem Memory.read_eraseCell (m : Memory) (a a' : Nat) :
    Memory.read (Memory.eraseCell a m) a' = if a' = a then Memory.unlisted a else Memory.read m a' := by
  induction m with
  | nil => by_cases h : a' = a <;> simp [Memory.eraseCell, Memory.read, h]
  | cons c m ih =>
    by_cases hc : c.1 = a
    · have : Memory.eraseCell a (c :: m) = Memory.eraseCell a m := by simp [Memory.eraseCell, hc]
      rw [this, ih, Memory.read]
      by_cases h : a' = a
      · simp [h]
      · simp [h, show c.1 ≠ a' by rw [hc]; exact fun e => h e.symm]
    · have : Memory.eraseCell a (c :: m) = c :: Memory.eraseCell a m := by simp [Memory.eraseCell, hc]
      rw [this, Memory.read, ih, Memory.read]
      by_cases h : a' = a
      · simp [h, hc]
      · simp [h]

theorem Memory.read_insertCell (m : Memory) (a a' : Nat) (b : Byte) (h : ∀ c ∈ m, c.1 ≠ a) :
    Memory.read (Memory.insertCell a b m) a' = if a' = a then b else Memory.read m a' := by
  induction m with
  | nil =>
    by_cases e : a' = a
    · simp [Memory.insertCell, Memory.read, e]
    · simp [Memory.insertCell, Memory.read, e, show a ≠ a' from fun x => e x.symm]
  | cons c m ih =>
    have hc : c.1 ≠ a := h c (by simp)
    have hm := ih fun d hd => h d (by simp [hd])
    by_cases hlt : c.1 < a
    · simp only [Memory.insertCell, hlt, if_true, Memory.read, hm]
      by_cases e : a' = a
      · simp [e, hc]
      · simp [e]
    · simp only [Memory.insertCell, hlt, if_false, Memory.read]
      by_cases e : a' = a
      · simp [e]
      · simp [e, show a ≠ a' from fun x => e x.symm]

/-- A write is seen at its address and nowhere else, in every memory. -/
theorem Memory.read_write (m : Memory) (a a' : Nat) (b : Byte) :
    Memory.read (Memory.write m a b) a' = if a' = a then b else Memory.read m a' := by
  unfold Memory.write
  split
  · next h => rw [Memory.read_eraseCell, h]
  · rw [Memory.read_insertCell _ _ _ _ (by simp [Memory.eraseCell]), Memory.read_eraseCell]
    by_cases e : a' = a <;> simp [e]

/-- What a block of bytes leaves at every address. -/
theorem Memory.read_writeBytes (bytes : List Byte) (m : Memory) (addr a : Nat) :
    Memory.read (Memory.writeBytes m addr bytes) a
      = if addr ≤ a then (bytes[a - addr]?).getD (Memory.read m a) else Memory.read m a := by
  induction bytes generalizing m addr with
  | nil => simp [Memory.writeBytes]
  | cons b bs ih =>
    rw [Memory.writeBytes, ih, Memory.read_write]
    by_cases h1 : a = addr
    · simp [h1]
    · by_cases h2 : addr ≤ a
      · have h3 : a - addr = (a - (addr + 1)) + 1 := by omega
        simp [h1, h2, show addr + 1 ≤ a by omega, h3]
      · simp [h1, h2, show ¬ addr + 1 ≤ a by omega]

@[simp] theorem Memory.length_readBytes (m : Memory) (addr n : Nat) :
    (Memory.readBytes m addr n).length = n := by
  simp [Memory.readBytes]

/-- The `k`-th byte of a block read. -/
theorem Memory.getElem?_readBytes (m : Memory) (addr n k : Nat) (h : k < n) :
    (Memory.readBytes m addr n)[k]? = some (Memory.read m (addr + k)) := by
  simp [Memory.readBytes, h]

/-! ### The canonical form -/

theorem Memory.wfFrom_mono {lo lo' : Nat} (m : Memory) (h : lo' ≤ lo) (hm : Memory.wfFrom lo m = true) :
    Memory.wfFrom lo' m = true := by
  cases m with
  | nil => rfl
  | cons c m =>
    simp only [Memory.wfFrom, Bool.and_eq_true, decide_eq_true_eq] at hm ⊢
    exact ⟨⟨⟨by omega, hm.1.1.2⟩, hm.1.2⟩, hm.2⟩

theorem Memory.wfFrom_eraseCell (m : Memory) (a : Nat) {lo : Nat} (hm : Memory.wfFrom lo m = true) :
    Memory.wfFrom lo (Memory.eraseCell a m) = true := by
  induction m generalizing lo with
  | nil => rfl
  | cons c m ih =>
    simp only [Memory.wfFrom, Bool.and_eq_true, decide_eq_true_eq] at hm
    by_cases hc : c.1 = a
    · have : Memory.eraseCell a (c :: m) = Memory.eraseCell a m := by simp [Memory.eraseCell, hc]
      rw [this]
      exact Memory.wfFrom_mono _ (by omega) (ih hm.2)
    · have : Memory.eraseCell a (c :: m) = c :: Memory.eraseCell a m := by simp [Memory.eraseCell, hc]
      rw [this]
      simp only [Memory.wfFrom, Bool.and_eq_true, decide_eq_true_eq]
      exact ⟨hm.1, ih hm.2⟩

theorem Memory.wfFrom_insertCell (m : Memory) (a : Nat) (b : Byte) {lo : Nat} (hlo : lo ≤ a)
    (ha : a < Config.memSize) (hb : b ≠ Memory.unlisted a) (hne : ∀ c ∈ m, c.1 ≠ a)
    (hm : Memory.wfFrom lo m = true) : Memory.wfFrom lo (Memory.insertCell a b m) = true := by
  induction m generalizing lo with
  | nil => simp [Memory.insertCell, Memory.wfFrom, hlo, ha, hb]
  | cons c m ih =>
    have hc : c.1 ≠ a := hne c (by simp)
    have hm' := hm
    simp only [Memory.wfFrom, Bool.and_eq_true, decide_eq_true_eq] at hm
    by_cases hlt : c.1 < a
    · simp only [Memory.insertCell, hlt, if_true, Memory.wfFrom, Bool.and_eq_true, decide_eq_true_eq]
      exact ⟨hm.1, ih (by omega) (fun d hd => hne d (by simp [hd])) hm.2⟩
    · simp only [Memory.insertCell, hlt, if_false]
      rw [Memory.wfFrom]
      simp only [Bool.and_eq_true, decide_eq_true_eq]
      refine ⟨⟨⟨hlo, ha⟩, hb⟩, ?_⟩
      simp only [Memory.wfFrom, Bool.and_eq_true, decide_eq_true_eq]
      exact ⟨⟨⟨by omega, hm.1.1.2⟩, hm.1.2⟩, hm.2⟩

/-- A write inside the address space keeps the canonical form. -/
theorem Memory.wf_write (m : Memory) (a : Nat) (b : Byte) (ha : a < Config.memSize)
    (hm : Memory.wf m = true) : Memory.wf (Memory.write m a b) = true := by
  unfold Memory.write
  split
  · exact Memory.wfFrom_eraseCell m a hm
  · next h =>
    exact Memory.wfFrom_insertCell _ a b (Nat.zero_le a) ha h (by simp [Memory.eraseCell])
      (Memory.wfFrom_eraseCell m a hm)

/-- A block write inside the address space keeps the canonical form. -/
theorem Memory.wf_writeBytes (bytes : List Byte) (m : Memory) (addr : Nat)
    (ha : addr + bytes.length ≤ Config.memSize) (hm : Memory.wf m = true) :
    Memory.wf (Memory.writeBytes m addr bytes) = true := by
  induction bytes generalizing m addr with
  | nil => exact hm
  | cons b bs ih =>
    simp only [List.length_cons] at ha
    exact ih _ _ (by omega) (Memory.wf_write m addr b (by omega) hm)

/-- The memory of the reset state is in canonical form. -/
theorem State.reset_mem_wf : Memory.wf State.reset.mem = true := rfl

end Sys2Proof.Machine
end

