-- ==== Sys2Proof/Laws/Registers.lean ====
section
/-! SUPPORT. Registers and keys: a read after a write (R21, R34), and lists of registers (R155). -/

namespace Sys2Proof.Machine

/-- A register write is seen at its register and nowhere else. -/
theorem State.readV_setV (s : State) (x y : Reg) (b : Byte) :
    (s.setV x b).readV y = if y = x then b else s.readV y := by
  by_cases h : y = x
  · subst h; simp [State.readV, State.setV]
  · have hne : x.toNat ≠ y.toNat := fun e => h (BitVec.eq_of_toNat_eq e.symm)
    simp [State.readV, State.setV, h, Vector.getElem_set_ne _ _ hne]

@[simp] theorem State.readV_setV_self (s : State) (x : Reg) (b : Byte) : (s.setV x b).readV x = b := by
  simp [State.readV_setV]

theorem State.readV_setV_ne (s : State) {x y : Reg} (b : Byte) (h : y ≠ x) :
    (s.setV x b).readV y = s.readV y := by
  simp [State.readV_setV, h]

/-- A key level is seen at its key and nowhere else. -/
theorem State.readKey_setKey (s : State) (k j : Nibble) (p : Bool) :
    (s.setKey k p).readKey j = if j = k then p else s.readKey j := by
  by_cases h : j = k
  · subst h; simp [State.readKey, State.setKey]
  · have hne : k.toNat ≠ j.toNat := fun e => h (BitVec.eq_of_toNat_eq e.symm)
    simp [State.readKey, State.setKey, h, Vector.getElem_set_ne _ _ hne]

/-- A list of registers is loaded from register `k` up; every other register keeps its value. -/
theorem State.readV_setVFrom (bytes : List Byte) (k : Nat) (s : State) (y : Reg)
    (hk : k + bytes.length ≤ 16) :
    (State.setVFrom k bytes s).readV y
      = if k ≤ y.toNat then (bytes[y.toNat - k]?).getD (s.readV y) else s.readV y := by
  induction bytes generalizing k s with
  | nil => simp [State.setVFrom]
  | cons b bs ih =>
    simp only [List.length_cons] at hk
    rw [State.setVFrom, ih (k + 1) _ (by omega), State.readV_setV]
    have hy : (y = BitVec.ofNat 4 k) ↔ y.toNat = k := by
      constructor
      · rintro rfl; simp; omega
      · rintro rfl; simp
    by_cases h1 : y.toNat = k
    · simp [hy.mpr h1, show k % 16 = k by omega]
    · by_cases h2 : k ≤ y.toNat
      · have h3 : y.toNat - k = (y.toNat - (k + 1)) + 1 := by omega
        simp [hy, h1, h2, show k + 1 ≤ y.toNat by omega, h3]
      · simp [hy, h1, h2, show ¬ k + 1 ≤ y.toNat by omega]

/-- Loading registers writes `V` alone. -/
theorem State.setVFrom_eq (bytes : List Byte) (k : Nat) (s : State) :
    State.setVFrom k bytes s = { s with v := (State.setVFrom k bytes s).v } := by
  induction bytes generalizing k s with
  | nil => rfl
  | cons b bs ih => rw [State.setVFrom, ih]; rfl

section

variable (bytes : List Byte) (k : Nat) (s : State)

@[simp] theorem State.setVFrom_i : (State.setVFrom k bytes s).i = s.i := by rw [State.setVFrom_eq]
@[simp] theorem State.setVFrom_pc : (State.setVFrom k bytes s).pc = s.pc := by rw [State.setVFrom_eq]
@[simp] theorem State.setVFrom_sp : (State.setVFrom k bytes s).sp = s.sp := by rw [State.setVFrom_eq]
@[simp] theorem State.setVFrom_stack : (State.setVFrom k bytes s).stack = s.stack := by rw [State.setVFrom_eq]
@[simp] theorem State.setVFrom_dt : (State.setVFrom k bytes s).dt = s.dt := by rw [State.setVFrom_eq]
@[simp] theorem State.setVFrom_st : (State.setVFrom k bytes s).st = s.st := by rw [State.setVFrom_eq]
@[simp] theorem State.setVFrom_mem : (State.setVFrom k bytes s).mem = s.mem := by rw [State.setVFrom_eq]
@[simp] theorem State.setVFrom_disp : (State.setVFrom k bytes s).disp = s.disp := by rw [State.setVFrom_eq]
@[simp] theorem State.setVFrom_dirty : (State.setVFrom k bytes s).dirty = s.dirty := by rw [State.setVFrom_eq]
@[simp] theorem State.setVFrom_keys : (State.setVFrom k bytes s).keys = s.keys := by rw [State.setVFrom_eq]
@[simp] theorem State.setVFrom_await : (State.setVFrom k bytes s).await = s.await := by rw [State.setVFrom_eq]
@[simp] theorem State.setVFrom_fault : (State.setVFrom k bytes s).fault = s.fault := by rw [State.setVFrom_eq]
@[simp] theorem State.setVFrom_dfc : (State.setVFrom k bytes s).dfc = s.dfc := by rw [State.setVFrom_eq]
@[simp] theorem State.setVFrom_rndCount : (State.setVFrom k bytes s).rndCount = s.rndCount := by rw [State.setVFrom_eq]
@[simp] theorem State.setVFrom_schedule : (State.setVFrom k bytes s).schedule = s.schedule := by rw [State.setVFrom_eq]
@[simp] theorem State.setVFrom_loadOpen : (State.setVFrom k bytes s).loadOpen = s.loadOpen := by rw [State.setVFrom_eq]

end

end Sys2Proof.Machine
end

