-- ==== Sys2Proof/Laws/Ops.lean ====
section
/-! SUPPORT. One lemma per shared operation, saying once everything it can do. -/

namespace Sys2Proof.Machine

/-- An instruction that ends in `settle` always answers a next state: the computed one, or the fault's entry
from the state before it. -/
theorem settle_cases (s : State) (r : Except Trap State) :
    (∃ t, r = .ok t ∧ settle s r = .next t) ∨ (∃ e, r = .error e ∧ settle s r = .next (s.takeFault e)) := by
  cases r with
  | ok t => exact .inl ⟨t, rfl, rfl⟩
  | error e => exact .inr ⟨e, rfl, rfl⟩

/-- `MemRead` raises exactly on a range that leaves the address space (R62). -/
theorem State.memRead_cases (s : State) (addr n : Nat) :
    (¬(n ≠ 0 ∧ addr + n - 1 > 0xFFF) ∧ s.memRead addr n = .ok (Memory.readBytes s.mem addr n)) ∨
    ((n ≠ 0 ∧ addr + n - 1 > 0xFFF) ∧
      s.memRead addr n = .error ⟨.memoryOutOfBounds, addr + n - 1⟩) := by
  by_cases h : n ≠ 0 ∧ addr + n - 1 > 0xFFF
  · exact .inr ⟨h, if_pos h⟩
  · exact .inl ⟨h, if_neg h⟩

/-- `MemWrite` raises exactly on a range that leaves the address space, and otherwise writes memory alone
(R62). -/
theorem State.memWrite_cases (s : State) (addr : Nat) (bytes : List Byte) :
    (¬(bytes.length ≠ 0 ∧ addr + bytes.length - 1 > 0xFFF) ∧
      s.memWrite addr bytes = .ok (s.setMem (Memory.writeBytes s.mem addr bytes))) ∨
    ((bytes.length ≠ 0 ∧ addr + bytes.length - 1 > 0xFFF) ∧
      s.memWrite addr bytes = .error ⟨.memoryOutOfBounds, addr + bytes.length - 1⟩) := by
  by_cases h : bytes.length ≠ 0 ∧ addr + bytes.length - 1 > 0xFFF
  · exact .inr ⟨h, if_pos h⟩
  · exact .inl ⟨h, if_neg h⟩

/-- The fetch raises exactly when `pc + 1 > 0xFFF` (R63). -/
theorem State.fetch_cases (s : State) :
    (s.pc.toNat ≤ 0xFFE ∧ s.fetch = .ok s.wordAtPc) ∨
    (0xFFE < s.pc.toNat ∧ s.fetch = .error ⟨.fetchOutOfBounds, s.pc.toNat⟩) := by
  by_cases h : s.pc.toNat + 1 > 0xFFF
  · exact .inr ⟨by omega, if_pos h⟩
  · exact .inl ⟨by omega, if_neg h⟩

/-- A push writes `SP` and one stack entry, or raises `StackOverflow` (R112). -/
theorem State.push_cases (s : State) (ret : Word) :
    (∃ h : s.sp.toNat < 15,
      s.push ret = .ok { s with sp := s.sp + 1, stack := s.stack.set (s.sp.toNat + 1) ret (by omega) }) ∨
    (15 ≤ s.sp.toNat ∧ s.push ret = .error ⟨.stackOverflow, s.sp.toNat⟩) := by
  by_cases h : s.sp.toNat < 15
  · exact .inl ⟨h, dif_pos h⟩
  · exact .inr ⟨by omega, dif_neg h⟩

/-- The stack has an entry at `SP` exactly when `SP` is at most 15. -/
theorem State.stackTop_cases (s : State) :
    (∃ h : s.sp.toNat < 16, s.stackTop = some s.stack[s.sp.toNat]) ∨
    (16 ≤ s.sp.toNat ∧ s.stackTop = none) := by
  by_cases h : s.sp.toNat < 16
  · exact .inl ⟨h, by simp [State.stackTop, h]⟩
  · exact .inr ⟨by omega, by simp [State.stackTop]; omega⟩

/-- The key index check of this hardware (R176). -/
theorem keyIndex_fault_cases (a : Byte) :
    (a.toNat ≤ 15 ∧ keyIndex .fault a = .ok (a.setWidth 4)) ∨
    (15 < a.toNat ∧ keyIndex .fault a = .error ⟨.keyIndexOutOfRange, a.toNat⟩) := by
  by_cases h : a.toNat > 15
  · exact .inr ⟨h, if_pos h⟩
  · exact .inl ⟨by omega, if_neg h⟩

/-- The masking alternative never raises (decision D6). -/
theorem keyIndex_mask4 (a : Byte) : keyIndex .mask4 a = .ok (a.setWidth 4) := rfl

@[simp] theorem State.length_regsUpTo (s : State) (x : Reg) : (s.regsUpTo x).length = x.toNat + 1 := by
  simp [State.regsUpTo]

@[simp] theorem length_decimalDigits (a : Byte) : (decimalDigits a).length = 3 := rfl

/-- The unbounded counter goes up by one (R38, R181). -/
@[simp] theorem dfcIncrement_none (n : Nat) : dfcIncrement none n = n + 1 := rfl

/-- A counter with room for it goes up by one. -/
theorem dfcIncrement_of_room {width n : Nat} (h : n + 1 < 2 ^ width) : dfcIncrement (some width) n = n + 1 := if_pos h

/-- A counter at its maximum stays (U16). -/
theorem dfcIncrement_of_full {width n : Nat} (h : 2 ^ width ≤ n + 1) : dfcIncrement (some width) n = n :=
  if_neg (by omega)

/-- Everything an increment can do, whatever the width: one more, or nothing at the maximum. -/
theorem dfcIncrement_cases (width : Option Nat) (n : Nat) :
    dfcIncrement width n = n + 1 ∨
    (∃ w, width = some w ∧ 2 ^ w ≤ n + 1 ∧ dfcIncrement width n = n) := by
  cases width with
  | none => exact .inl rfl
  | some w =>
    by_cases h : n + 1 < 2 ^ w
    · exact .inl (dfcIncrement_of_room h)
    · exact .inr ⟨w, rfl, by omega, dfcIncrement_of_full (by omega)⟩

/-- A counter that fits its width still does after an increment. -/
theorem dfcIncrement_lt {w n : Nat} (h : n < 2 ^ w) : dfcIncrement (some w) n < 2 ^ w := by
  by_cases h' : n + 1 < 2 ^ w
  · rwa [dfcIncrement_of_room h']
  · rwa [dfcIncrement_of_full (by omega)]

end Sys2Proof.Machine
end

