-- ==== Sys2Proof/Laws/PerInstr.lean ====
section
/-! SUPPORT. Per-instruction families: for every instruction, its encoding is accepted by its own row of R94
(30_encoding.md). -/

namespace Sys2Proof.Laws

/-- The encoding of an instruction matches the mask and pattern of its row of the opcode table. -/
def EncodingMatchesRow.Statement (i : Instr) : Prop :=
  ∃ r, opcodeTable[rowIndex i]? = some r ∧ r.accepts (encode i)

/-- Under the mask of `XY`, only the family and the sub-opcode are left. -/
theorem and_maskXY (op x y n : Nibble) :
    (op ++ x ++ y ++ n : Word) &&& 0xF00F#16 = (op ++ 0x0#4 ++ 0x0#4 ++ n : Word) := by
  have h : (0xF00F#16 : Word) = (0xF#4 ++ 0x0#4 ++ 0x0#4 ++ 0xF#4 : Word) := by decide
  rw [h]
  apply BitVec.eq_of_getLsbD_eq
  intro k hk
  simp only [BitVec.getLsbD_and, BitVec.getLsbD_append]
  repeat' split
  all_goals simp
  all_goals (interval_cases k <;> simp_all)

/-- Under the mask of `NNN`, `XKK` and `XYN`, only the family is left. -/
theorem and_maskOp (op : Nibble) (nnn : Address) :
    (op ++ nnn : Word) &&& 0xF000#16 = (op ++ 0x000#12 : Word) := by
  have h : (0xF000#16 : Word) = (0xF#4 ++ 0x000#12 : Word) := by decide
  rw [h]
  apply BitVec.eq_of_getLsbD_eq
  intro k hk
  simp only [BitVec.getLsbD_and, BitVec.getLsbD_append]
  repeat' split
  all_goals simp
  all_goals (interval_cases k <;> simp_all)

/-- Under the mask of `X`, only the family and the low byte are left. -/
theorem and_maskX (op x : Nibble) (kk : Byte) :
    (op ++ x ++ kk : Word) &&& 0xF0FF#16 = (op ++ 0x0#4 ++ kk : Word) := by
  have h : (0xF0FF#16 : Word) = (0xF#4 ++ 0x0#4 ++ 0xFF#8 : Word) := by decide
  rw [h]
  apply BitVec.eq_of_getLsbD_eq
  intro k hk
  simp only [BitVec.getLsbD_and, BitVec.getLsbD_append]
  repeat' split
  all_goals simp
  all_goals (interval_cases k <;> simp_all)

/-- A row of format `NNN`, `XKK` or `XYN` accepts a word exactly by its family. -/
theorem mask_op_iff (w : Word) (op : Nibble) : w &&& 0xF000#16 = (op ++ 0x000#12 : Word) ↔ fieldOp w = op := by
  have h := and_maskOp (fieldOp w) (fieldNNN w)
  rw [← eq_fieldNNN w] at h
  rw [h]
  exact ⟨fun e => by simpa using congrArg fieldOp e, fun e => by rw [e]⟩

/-- A row of format `XY` accepts a word exactly by its family and its last digit. -/
theorem mask_xy_iff (w : Word) (op n : Nibble) :
    w &&& 0xF00F#16 = (op ++ 0x0#4 ++ 0x0#4 ++ n : Word) ↔ fieldOp w = op ∧ fieldN w = n := by
  have h := and_maskXY (fieldOp w) (fieldX w) (fieldY w) (fieldN w)
  rw [← eq_field4 w] at h
  rw [h]
  exact ⟨fun e => ⟨by simpa using congrArg fieldOp e, by simpa using congrArg fieldN e⟩,
    fun ⟨e, f⟩ => by rw [e, f]⟩

/-- A row of format `X` accepts a word exactly by its family and its low byte. -/
theorem mask_x_iff (w : Word) (op : Nibble) (kk : Byte) :
    w &&& 0xF0FF#16 = (op ++ 0x0#4 ++ kk : Word) ↔ fieldOp w = op ∧ fieldKK w = kk := by
  have h := and_maskX (fieldOp w) (fieldX w) (fieldKK w)
  rw [← eq_fieldXKK w] at h
  rw [h]
  exact ⟨fun e => ⟨by simpa using congrArg fieldOp e, by simpa using congrArg fieldKK e⟩,
    fun ⟨e, f⟩ => by rw [e, f]⟩

theorem append_xkk (op x : Nibble) (kk : Byte) : (op ++ x ++ kk : Word) = (op ++ (x ++ kk : Address) : Word) :=
  BitVec.append_assoc

theorem append_xyn (op x y n : Nibble) :
    (op ++ x ++ y ++ n : Word) = (op ++ (x ++ (y ++ n) : Address) : Word) := by
  apply BitVec.eq_of_toNat_eq
  have hx := x.isLt; have hy := y.isLt; have hn := n.isLt
  rw [toNat_field4, toNat_fieldNNN, BitVec.toNat_append, BitVec.toNat_append,
    ← Nat.shiftLeft_add_eq_or_of_lt hn, Nat.shiftLeft_eq y.toNat,
    ← Nat.shiftLeft_add_eq_or_of_lt (show y.toNat * 2 ^ 4 + n.toNat < 2 ^ (4 + 4) by omega), Nat.shiftLeft_eq]
  omega

theorem EncodingMatchesRow.cls : EncodingMatchesRow.Statement (.cls) :=
  ⟨_, rfl, by decide⟩

theorem EncodingMatchesRow.ret : EncodingMatchesRow.Statement (.ret) :=
  ⟨_, rfl, by decide⟩

theorem EncodingMatchesRow.jp (nnn : Address) : EncodingMatchesRow.Statement (.jp nnn) :=
  ⟨_, rfl, and_maskOp _ nnn⟩

theorem EncodingMatchesRow.call (nnn : Address) : EncodingMatchesRow.Statement (.call nnn) :=
  ⟨_, rfl, and_maskOp _ nnn⟩

theorem EncodingMatchesRow.seImm (x : Reg) (kk : Byte) : EncodingMatchesRow.Statement (.seImm x kk) :=
  ⟨_, rfl, by
    rw [OpcodeRow.accepts, encode, append_xkk]; exact and_maskOp _ _⟩

theorem EncodingMatchesRow.sneImm (x : Reg) (kk : Byte) : EncodingMatchesRow.Statement (.sneImm x kk) :=
  ⟨_, rfl, by
    rw [OpcodeRow.accepts, encode, append_xkk]; exact and_maskOp _ _⟩

theorem EncodingMatchesRow.seReg (x y : Reg) : EncodingMatchesRow.Statement (.seReg x y) :=
  ⟨_, rfl, and_maskXY _ x y _⟩

theorem EncodingMatchesRow.ldImm (x : Reg) (kk : Byte) : EncodingMatchesRow.Statement (.ldImm x kk) :=
  ⟨_, rfl, by
    rw [OpcodeRow.accepts, encode, append_xkk]; exact and_maskOp _ _⟩

theorem EncodingMatchesRow.addImm (x : Reg) (kk : Byte) : EncodingMatchesRow.Statement (.addImm x kk) :=
  ⟨_, rfl, by
    rw [OpcodeRow.accepts, encode, append_xkk]; exact and_maskOp _ _⟩

theorem EncodingMatchesRow.ldReg (x y : Reg) : EncodingMatchesRow.Statement (.ldReg x y) :=
  ⟨_, rfl, and_maskXY _ x y _⟩

theorem EncodingMatchesRow.orReg (x y : Reg) : EncodingMatchesRow.Statement (.orReg x y) :=
  ⟨_, rfl, and_maskXY _ x y _⟩

theorem EncodingMatchesRow.andReg (x y : Reg) : EncodingMatchesRow.Statement (.andReg x y) :=
  ⟨_, rfl, and_maskXY _ x y _⟩

theorem EncodingMatchesRow.xorReg (x y : Reg) : EncodingMatchesRow.Statement (.xorReg x y) :=
  ⟨_, rfl, and_maskXY _ x y _⟩

theorem EncodingMatchesRow.addReg (x y : Reg) : EncodingMatchesRow.Statement (.addReg x y) :=
  ⟨_, rfl, and_maskXY _ x y _⟩

theorem EncodingMatchesRow.subReg (x y : Reg) : EncodingMatchesRow.Statement (.subReg x y) :=
  ⟨_, rfl, and_maskXY _ x y _⟩

theorem EncodingMatchesRow.shr (x y : Reg) : EncodingMatchesRow.Statement (.shr x y) :=
  ⟨_, rfl, and_maskXY _ x y _⟩

theorem EncodingMatchesRow.subnReg (x y : Reg) : EncodingMatchesRow.Statement (.subnReg x y) :=
  ⟨_, rfl, and_maskXY _ x y _⟩

theorem EncodingMatchesRow.shl (x y : Reg) : EncodingMatchesRow.Statement (.shl x y) :=
  ⟨_, rfl, and_maskXY _ x y _⟩

theorem EncodingMatchesRow.sneReg (x y : Reg) : EncodingMatchesRow.Statement (.sneReg x y) :=
  ⟨_, rfl, and_maskXY _ x y _⟩

theorem EncodingMatchesRow.ldI (nnn : Address) : EncodingMatchesRow.Statement (.ldI nnn) :=
  ⟨_, rfl, and_maskOp _ nnn⟩

theorem EncodingMatchesRow.jpV0 (nnn : Address) : EncodingMatchesRow.Statement (.jpV0 nnn) :=
  ⟨_, rfl, and_maskOp _ nnn⟩

theorem EncodingMatchesRow.rnd (x : Reg) (kk : Byte) : EncodingMatchesRow.Statement (.rnd x kk) :=
  ⟨_, rfl, by
    rw [OpcodeRow.accepts, encode, append_xkk]; exact and_maskOp _ _⟩

theorem EncodingMatchesRow.drw (x y : Reg) (n : Nibble) : EncodingMatchesRow.Statement (.drw x y n) :=
  ⟨_, rfl, by
    rw [OpcodeRow.accepts, encode, append_xyn]; exact and_maskOp _ _⟩

theorem EncodingMatchesRow.skp (x : Reg) : EncodingMatchesRow.Statement (.skp x) :=
  ⟨_, rfl, and_maskX _ x _⟩

theorem EncodingMatchesRow.sknp (x : Reg) : EncodingMatchesRow.Statement (.sknp x) :=
  ⟨_, rfl, and_maskX _ x _⟩

theorem EncodingMatchesRow.ldVxDt (x : Reg) : EncodingMatchesRow.Statement (.ldVxDt x) :=
  ⟨_, rfl, and_maskX _ x _⟩

theorem EncodingMatchesRow.ldVxK (x : Reg) : EncodingMatchesRow.Statement (.ldVxK x) :=
  ⟨_, rfl, and_maskX _ x _⟩

theorem EncodingMatchesRow.ldDtVx (x : Reg) : EncodingMatchesRow.Statement (.ldDtVx x) :=
  ⟨_, rfl, and_maskX _ x _⟩

theorem EncodingMatchesRow.ldStVx (x : Reg) : EncodingMatchesRow.Statement (.ldStVx x) :=
  ⟨_, rfl, and_maskX _ x _⟩

theorem EncodingMatchesRow.addI (x : Reg) : EncodingMatchesRow.Statement (.addI x) :=
  ⟨_, rfl, and_maskX _ x _⟩

theorem EncodingMatchesRow.ldF (x : Reg) : EncodingMatchesRow.Statement (.ldF x) :=
  ⟨_, rfl, and_maskX _ x _⟩

theorem EncodingMatchesRow.ldB (x : Reg) : EncodingMatchesRow.Statement (.ldB x) :=
  ⟨_, rfl, and_maskX _ x _⟩

theorem EncodingMatchesRow.stRegs (x : Reg) : EncodingMatchesRow.Statement (.stRegs x) :=
  ⟨_, rfl, and_maskX _ x _⟩

theorem EncodingMatchesRow.ldRegs (x : Reg) : EncodingMatchesRow.Statement (.ldRegs x) :=
  ⟨_, rfl, and_maskX _ x _⟩

end Sys2Proof.Laws
end

