-- ==== Sys2Proof/Laws/Step.lean ====
section
/-! SUPPORT. What a step can do, said once: the cases of the `EXEC` cycle and of the host's strobes. -/

namespace Sys2Proof.Machine

/-- Everything one `EXEC` cycle can do: halted, waiting, a fetch fault, a decode fault, or the decoded
instruction (R90, R190). -/
theorem State.execCycle_cases (s : State) :
    (s.fault.isSome = true ∧ s.execCycle = .next s) ∨
    (s.fault = none ∧ (∃ x, s.await = .waiting x) ∧ s.execCycle = .next s) ∨
    (s.fault = none ∧ s.await = .none ∧ 0xFFE < s.pc.toNat ∧
      s.execCycle = .next (s.closeLoad.takeFault ⟨.fetchOutOfBounds, s.pc.toNat⟩)) ∨
    (s.fault = none ∧ s.await = .none ∧ s.pc.toNat ≤ 0xFFE ∧
      (∃ e, decodeWord s.wordAtPc = .error e) ∧ s.execCycle = .next s.closeLoad.decodeFault) ∨
    (s.fault = none ∧ s.await = .none ∧ s.pc.toNat ≤ 0xFFE ∧
      ∃ i, decodeWord s.wordAtPc = .ok i ∧ s.execCycle = exec i s.closeLoad) := by
  cases hf : s.fault with
  | some f => exact .inl ⟨rfl, by simp [State.execCycle, hf]⟩
  | none =>
    cases ha : s.await with
    | waiting x => exact .inr (.inl ⟨rfl, ⟨x, rfl⟩, by simp [State.execCycle, hf, ha]⟩)
    | none =>
      have hc : s.execCycle = s.closeLoad.runCycle := by simp [State.execCycle, hf, ha]
      rcases s.fetch_cases with ⟨hp, hw⟩ | ⟨hp, hw⟩
      · cases hd : decodeWord s.wordAtPc with
        | error e =>
          exact .inr (.inr (.inr (.inl ⟨rfl, rfl, hp, ⟨e, rfl⟩, by
            rw [hc, State.runCycle, State.closeLoad_fetch, hw]; simp [State.execWord, hd]⟩)))
        | ok i =>
          exact .inr (.inr (.inr (.inr ⟨rfl, rfl, hp, i, rfl, by
            rw [hc, State.runCycle, State.closeLoad_fetch, hw]; simp [State.execWord, hd]⟩)))
      · exact .inr (.inr (.inl ⟨rfl, rfl, hp, by
          rw [hc, State.runCycle, State.closeLoad_fetch, hw]⟩))

/-- A step serves the strobe the schedule names. -/
theorem step_of_nextStrobe {s : State} {e : Strobe} (h : s.nextStrobe = e) :
    step s = (s.setSchedule s.schedule.tail).strobe e := by
  rw [step, h]

/-- The `LOAD` strobe answers a next state exactly for a well-formed image in an open window (R74). -/
theorem State.loadImage_cases (s : State) (bytes : List Byte) :
    (s.loadOpen = false ∧ s.loadImage bytes = .refused .loadNotPermitted) ∨
    (s.loadOpen = true ∧ imageWellFormed bytes = false ∧ s.loadImage bytes = .refused .romTooLarge) ∨
    (s.loadOpen = true ∧ imageWellFormed bytes = true ∧
      s.loadImage bytes = .next (s.setMem (Memory.writeBytes s.mem Config.progBase bytes)).closeLoad) := by
  unfold State.loadImage
  cases s.loadOpen <;> cases imageWellFormed bytes <;> simp

/-- A key event is the second half of `Fx0A` exactly on a key-down transition during a wait (R195). -/
theorem State.keyEvent_cases (s : State) (k : Nibble) (p : Bool) :
    (∃ x, s.await = .waiting x ∧ p = true ∧ s.readKey k = false ∧
      s.keyEvent k p = (s.setKey k p).completeAwait x k) ∨
    ((s.await = .none ∨ p = false ∨ s.readKey k = true) ∧ s.keyEvent k p = s.setKey k p) := by
  unfold State.keyEvent
  cases ha : s.await <;> cases p <;> cases hk : s.readKey k <;> simp

/-- A run of any machine starts with its next step. -/
theorem run_succ (M : Host.Core) (n : Nat) {s t : M.State} (h : M.step s = .next t) :
    M.run (n + 1) s = M.run n t := by
  rw [Host.Core.run, h]

/-- A run of this machine starts with its next step. -/
theorem core_run_succ {s t : State} (n : Nat) (h : step s = .next t) :
    Sys2Proof.core.run (n + 1) s = Sys2Proof.core.run n t :=
  run_succ Sys2Proof.core n h

end Sys2Proof.Machine
end

