-- ==== Sys2Proof/Tests/Slice0.lean ====
section
/-! SUPPORT. The model's own tests: decoding against words written out from R94, the smoke tests of
well-formedness, one-step tests with the results of the spec's own vectors (95_test_vectors.md), and a witness for
the hypotheses of every obligation that has some. -/

namespace Sys2Proof.Tests

open Sys2Proof.Machine

/-! ### Helpers -/

/-- A look at the next state; none at a stop. -/
def after {α : Type} (o : Outcome) (look : State → α) : Option α :=
  match o with
  | .next t => some (look t)
  | .fault _ => none
  | .refused _ => none

/-- The reset state with `pc` at an address. -/
def at' (pc : Word) : State := State.reset.setPc pc

/-- A state with one word stored at its `pc`. -/
def withWord (w : Word) (s : State) : State :=
  s.setMem (Memory.writeBytes s.mem s.pc.toNat (bytesOfWord w))

/-- A state with bytes stored from an address up. -/
def withBytes (addr : Nat) (bytes : List Byte) (s : State) : State := s.setMem (Memory.writeBytes s.mem addr bytes)

/-- A state with `SP` and one stack entry set. -/
def withStack (sp : Byte) (k : Fin 16) (ret : Word) (s : State) : State :=
  { s with sp := sp, stack := s.stack.set k.val ret k.isLt }

/-- A state with one pixel set. -/
def withPixel (c : Fin 64) (r : Fin 32) (s : State) : State := s.setDisp (setPixel s.disp r c true) s.dirty

/-- One step strobe on a word at the state's `pc`, and a look at what it leaves. -/
def run1 {α : Type} (w : Word) (s : State) (look : State → α) : Option α := after (step (withWord w s)) look

/-- One host strobe of the schedule, and a look at what it leaves. -/
def serve {α : Type} (e : Strobe) (s : State) (look : State → α) : Option α := after (step (s.setSchedule [e])) look

/-! ### Decoding: every constructor, by a word written out bit by bit from R91 and R94 -/

theorem test_decode_cls : decodeWord (0b0000#4 ++ 0b0000#4 ++ 0b1110#4 ++ 0b0000#4 : Word) = .ok .cls := by
  decide

theorem test_decode_ret : decodeWord (0b0000#4 ++ 0b0000#4 ++ 0b1110#4 ++ 0b1110#4 : Word) = .ok .ret := by
  decide

theorem test_decode_jp : decodeWord (0b0001#4 ++ 0b101010111100#12 : Word) = .ok (.jp 0xABC) := by
  decide

theorem test_decode_call : decodeWord (0b0010#4 ++ 0b001000001100#12 : Word) = .ok (.call 0x20C) := by
  decide

theorem test_decode_seImm : decodeWord (0b0011#4 ++ 0b0001#4 ++ 0b10100110#8 : Word) = .ok (.seImm 1 0xA6) := by
  decide

theorem test_decode_sneImm : decodeWord (0b0100#4 ++ 0b1010#4 ++ 0b00010001#8 : Word) = .ok (.sneImm 0xA 0x11) := by
  decide

theorem test_decode_seReg : decodeWord (0b0101#4 ++ 0b0010#4 ++ 0b0011#4 ++ 0b0000#4 : Word) = .ok (.seReg 2 3) := by
  decide

theorem test_decode_ldImm : decodeWord (0b0110#4 ++ 0b1111#4 ++ 0b10101011#8 : Word) = .ok (.ldImm 0xF 0xAB) := by
  decide

theorem test_decode_addImm : decodeWord (0b0111#4 ++ 0b0011#4 ++ 0b01100100#8 : Word) = .ok (.addImm 3 0x64) := by
  decide

theorem test_decode_ldReg : decodeWord (0b1000#4 ++ 0b0001#4 ++ 0b0010#4 ++ 0b0000#4 : Word) = .ok (.ldReg 1 2) := by
  decide

theorem test_decode_orReg : decodeWord (0b1000#4 ++ 0b0001#4 ++ 0b0010#4 ++ 0b0001#4 : Word) = .ok (.orReg 1 2) := by
  decide

theorem test_decode_andReg : decodeWord (0b1000#4 ++ 0b0001#4 ++ 0b0010#4 ++ 0b0010#4 : Word) = .ok (.andReg 1 2) := by
  decide

theorem test_decode_xorReg : decodeWord (0b1000#4 ++ 0b0001#4 ++ 0b0010#4 ++ 0b0011#4 : Word) = .ok (.xorReg 1 2) := by
  decide

theorem test_decode_addReg : decodeWord (0b1000#4 ++ 0b0001#4 ++ 0b1111#4 ++ 0b0100#4 : Word) = .ok (.addReg 1 0xF) := by
  decide

theorem test_decode_subReg : decodeWord (0b1000#4 ++ 0b1111#4 ++ 0b0010#4 ++ 0b0101#4 : Word) = .ok (.subReg 0xF 2) := by
  decide

theorem test_decode_shr : decodeWord (0b1000#4 ++ 0b0001#4 ++ 0b0111#4 ++ 0b0110#4 : Word) = .ok (.shr 1 7) := by
  decide

theorem test_decode_subnReg : decodeWord (0b1000#4 ++ 0b0001#4 ++ 0b0010#4 ++ 0b0111#4 : Word) = .ok (.subnReg 1 2) := by
  decide

theorem test_decode_shl : decodeWord (0b1000#4 ++ 0b0001#4 ++ 0b1111#4 ++ 0b1110#4 : Word) = .ok (.shl 1 0xF) := by
  decide

theorem test_decode_sneReg : decodeWord (0b1001#4 ++ 0b0010#4 ++ 0b0011#4 ++ 0b0000#4 : Word) = .ok (.sneReg 2 3) := by
  decide

theorem test_decode_ldI : decodeWord (0b1010#4 ++ 0b111111111111#12 : Word) = .ok (.ldI 0xFFF) := by
  decide

theorem test_decode_jpV0 : decodeWord (0b1011#4 ++ 0b001111111110#12 : Word) = .ok (.jpV0 0x3FE) := by
  decide

theorem test_decode_rnd : decodeWord (0b1100#4 ++ 0b0001#4 ++ 0b00001111#8 : Word) = .ok (.rnd 1 0x0F) := by
  decide

theorem test_decode_drw : decodeWord (0b1101#4 ++ 0b1010#4 ++ 0b1011#4 ++ 0b0010#4 : Word) = .ok (.drw 0xA 0xB 2) := by
  decide

theorem test_decode_skp : decodeWord (0b1110#4 ++ 0b0010#4 ++ 0b10011110#8 : Word) = .ok (.skp 2) := by
  decide

theorem test_decode_sknp : decodeWord (0b1110#4 ++ 0b0010#4 ++ 0b10100001#8 : Word) = .ok (.sknp 2) := by
  decide

theorem test_decode_ldVxDt : decodeWord (0b1111#4 ++ 0b0011#4 ++ 0b00000111#8 : Word) = .ok (.ldVxDt 3) := by
  decide

theorem test_decode_ldVxK : decodeWord (0b1111#4 ++ 0b0010#4 ++ 0b00001010#8 : Word) = .ok (.ldVxK 2) := by
  decide

theorem test_decode_ldDtVx : decodeWord (0b1111#4 ++ 0b0001#4 ++ 0b00010101#8 : Word) = .ok (.ldDtVx 1) := by
  decide

theorem test_decode_ldStVx : decodeWord (0b1111#4 ++ 0b0100#4 ++ 0b00011000#8 : Word) = .ok (.ldStVx 4) := by
  decide

theorem test_decode_addI : decodeWord (0b1111#4 ++ 0b0010#4 ++ 0b00011110#8 : Word) = .ok (.addI 2) := by
  decide

theorem test_decode_ldF : decodeWord (0b1111#4 ++ 0b0010#4 ++ 0b00101001#8 : Word) = .ok (.ldF 2) := by
  decide

theorem test_decode_ldB : decodeWord (0b1111#4 ++ 0b0101#4 ++ 0b00110011#8 : Word) = .ok (.ldB 5) := by
  decide

theorem test_decode_stRegs : decodeWord (0b1111#4 ++ 0b1111#4 ++ 0b01010101#8 : Word) = .ok (.stRegs 0xF) := by
  decide

theorem test_decode_ldRegs : decodeWord (0b1111#4 ++ 0b0100#4 ++ 0b01100101#8 : Word) = .ok (.ldRegs 4) := by
  decide

/-- R68, R93: the first byte is the high one, and fields come out of the big-endian word. -/
theorem test_decode_bytes_are_big_endian : decodeBytes [0x12#8, 0x34#8, 0xFF#8] = .ok (.jp 0x234, [0xFF]) := by
  decide

/-- R99: one byte is no instruction, and is refused by name. -/
theorem test_decode_truncated : decodeBytes [0x12#8] = .error (.truncated [0x12]) := by decide

/-- R95, V-DEC1 to V-DEC9: unrecognised words are refused by name, at the edges of each family. -/
theorem test_decode_rejects_by_name :
    [0x0000, 0x0123, 0x00E1, 0x00FE, 0x5231, 0x8128, 0x8008, 0x923F].map (fun w : Word => decodeWord w)
      = [0x0000, 0x0123, 0x00E1, 0x00FE, 0x5231, 0x8128, 0x8008, 0x923F].map
          (fun w : Word => .error (.unrecognised w)) := by
  decide

theorem test_decode_rejects_by_name_e_f :
    [0xE09D, 0xE29F, 0xF000, 0xF175, 0xF20B, 0xFFFF].map (fun w : Word => decodeWord w)
      = [0xE09D, 0xE29F, 0xF000, 0xF175, 0xF20B, 0xFFFF].map (fun w : Word => .error (.unrecognised w)) := by
  decide

/-- R94: the encoder's word for `8xy6`, the ignored field kept. -/
theorem test_encode_keeps_the_ignored_field : encode (.shr 1 7) = 0x8176#16 := by decide

theorem test_decode_table_word : decodeTableWord 16 0xDAB2 = some (.drw 0xA 0xB 2) := by decide

/-! ### Well-formedness (R74, R187, R213): what the checks refuse -/

theorem test_image_of_3584_bytes_is_well_formed : imageWellFormed (List.replicate 3584 0#8) = true := by
  rw [imageWellFormed, List.length_replicate]
  decide

theorem test_image_of_3585_bytes_is_ill_formed : imageWellFormed (List.replicate 3585 0#8) = false := by
  rw [imageWellFormed, List.length_replicate]
  decide

theorem test_schedule_loads_once : scheduleWellFormed true [.load [0x12, 0x00], .load [0x12, 0x00]] = false := by
  decide

theorem test_schedule_loads_before_the_first_exec : scheduleWellFormed true [.exec, .load [0x12, 0x00]] = false := by
  decide

theorem test_schedule_with_an_image_too_long :
    scheduleWellFormed true [.load (List.replicate 3585 0#8)] = false := by
  rw [scheduleWellFormed, test_image_of_3585_bytes_is_ill_formed]
  decide

theorem test_schedule_loads_again_after_a_reset :
    scheduleWellFormed true [.load [], .exec, .tick, .key 5 true, .flush, .reset, .load [0x12]] = true := by
  decide

/-! ### One step per instruction: the results are those of the vectors of 95_test_vectors.md -/

/-- V-CT1. -/
theorem test_jp : run1 0x1ABC State.reset (fun t => t.pc) = some 0xABC := by decide

/-- V-CT2. -/
theorem test_jp_to_itself : run1 0x1204 (at' 0x204) (fun t => t.pc) = some 0x204 := by decide

/-- V-CT5. -/
theorem test_call : run1 0x220C (at' 0x204) (fun t => (t.pc, t.sp, t.stack[1])) = some (0x20C, 1, 0x206) := by decide

/-- V-CT6. -/
theorem test_call_to_the_last_level :
    run1 0x2300 (withStack 14 1 0 (at' 0xFFE))
      (fun t => (t.pc, t.sp, t.stack[15])) = some (0x300, 15, 0x1000) := by
  decide

/-- V-CT9. -/
theorem test_jpV0 : run1 0xBFFF (State.reset.setV 0 0xFF) (fun t => t.pc) = some 0x10FE := by decide

/-- V-CT10. -/
theorem test_jpV0_reads_v0 :
    run1 0xB3FE ((State.reset.setV 0 1).setV 3 0x80)
      (fun t => t.pc) = some 0x3FF := by
  decide

/-- V-CT11. -/
theorem test_ret :
    run1 0x00EE (withStack 1 1 0x206 (at' 0x20C))
      (fun t => (t.pc, t.sp)) = some (0x206, 0) := by
  decide

/-- V-CT13. -/
theorem test_ret_underflow :
    run1 0x00EE State.reset
      (fun t => (t.pc, t.fault)) = some (0x200, some ⟨.stackUnderflow, 0, 0x200⟩) := by
  decide

/-- V-SK1. -/
theorem test_seImm_skips : run1 0x3100 (at' 0x206) (fun t => t.pc) = some 0x20A := by decide

/-- V-SK2. -/
theorem test_seImm_falls_through : run1 0x3100 ((at' 0x206).setV 1 4) (fun t => t.pc) = some 0x208 := by decide

/-- V-SK4. -/
theorem test_sneImm_skips : run1 0x4A11 ((at' 0x300).setV 0xA 0x10) (fun t => t.pc) = some 0x304 := by decide

/-- V-SK5. -/
theorem test_sneImm_falls_through : run1 0x4A10 ((at' 0x300).setV 0xA 0x10) (fun t => t.pc) = some 0x302 := by decide

/-- V-SK6. -/
theorem test_seReg_skips : run1 0x5230 ((State.reset.setV 2 7).setV 3 7) (fun t => t.pc) = some 0x204 := by decide

/-- V-SK7. -/
theorem test_seReg_falls_through :
    run1 0x5230 ((State.reset.setV 2 7).setV 3 8)
      (fun t => t.pc) = some 0x202 := by
  decide

/-- V-SK9. -/
theorem test_sneReg_skips : run1 0x9230 ((State.reset.setV 2 7).setV 3 8) (fun t => t.pc) = some 0x204 := by decide

/-- V-SK11. -/
theorem test_sneReg_same_register : run1 0x9220 (State.reset.setV 2 0x99) (fun t => t.pc) = some 0x202 := by decide

/-- V-ALU2. -/
theorem test_ldImm :
    run1 0x6FAB (State.reset.setV 0xF 1)
      (fun t => (t.readV 0xF, t.pc)) = some (0xAB, 0x202) := by
  decide

/-- V-ALU4. -/
theorem test_addImm_no_carry_out :
    run1 0x7364 (State.reset.setV 3 0xC8)
      (fun t => (t.readV 3, t.readV 0xF, t.pc)) = some (0x2C, 0, 0x202) := by
  decide

/-- V-ALU6. -/
theorem test_addImm_on_vf : run1 0x7F02 (State.reset.setV 0xF 0xFF) (fun t => t.readV 0xF) = some 1 := by decide

/-- V-ALU7. -/
theorem test_ldReg :
    run1 0x8120 (State.reset.setV 2 0x3C)
      (fun t => (t.readV 1, t.readV 2)) = some (0x3C, 0x3C) := by
  decide

/-- V-ALU8. -/
theorem test_orReg :
    run1 0x8121 (((State.reset.setV 1 0x0F).setV 2 0xF0).setV 0xF 1)
      (fun t => (t.readV 1, t.readV 0xF)) = some (0xFF, 1) := by
  decide

/-- V-ALU9. -/
theorem test_andReg :
    run1 0x8122 (((State.reset.setV 1 0x3C).setV 2 0x0F).setV 0xF 1)
      (fun t => (t.readV 1, t.readV 0xF)) = some (0x0C, 1) := by
  decide

/-- V-ALU10. -/
theorem test_xorReg :
    run1 0x8123 (((State.reset.setV 1 0xFF).setV 2 0x0F).setV 0xF 1)
      (fun t => (t.readV 1, t.readV 0xF)) = some (0xF0, 1) := by
  decide

/-- V-ALU11. -/
theorem test_xorReg_same_register : run1 0x8443 (State.reset.setV 4 0x5A) (fun t => t.readV 4) = some 0 := by decide

/-- V-ALU16. -/
theorem test_addReg_carry :
    run1 0x81F4 ((State.reset.setV 1 0xC8).setV 0xF 0x64)
      (fun t => (t.readV 1, t.readV 0xF)) = some (0x2C, 1) := by
  decide

/-- V-ALU17. -/
theorem test_addReg_on_vf :
    run1 0x8F24 ((State.reset.setV 0xF 0xC8).setV 2 0x64)
      (fun t => t.readV 0xF) = some 0x2C := by
  decide

/-- V-ALU21. -/
theorem test_subReg_borrow :
    run1 0x8125 ((State.reset.setV 1 3).setV 2 0xA)
      (fun t => (t.readV 1, t.readV 0xF)) = some (0xF9, 0) := by
  decide

/-- V-ALU22. -/
theorem test_subReg_equal :
    run1 0x8125 ((State.reset.setV 1 7).setV 2 7)
      (fun t => (t.readV 1, t.readV 0xF)) = some (0, 1) := by
  decide

/-- V-ALU27. -/
theorem test_shr_ignores_vy :
    run1 0x8176 ((State.reset.setV 1 5).setV 7 0xFF)
      (fun t => (t.readV 1, t.readV 0xF, t.readV 7)) = some (2, 1, 0xFF) := by
  decide

/-- V-ALU28. -/
theorem test_shr_on_vf : run1 0x8F06 (State.reset.setV 0xF 3) (fun t => t.readV 0xF) = some 1 := by decide

/-- V-ALU29. -/
theorem test_subnReg :
    run1 0x8127 ((State.reset.setV 1 3).setV 2 0xA)
      (fun t => (t.readV 1, t.readV 0xF)) = some (7, 1) := by
  decide

/-- V-ALU30. -/
theorem test_subnReg_borrow :
    run1 0x8127 (((State.reset.setV 1 0xA).setV 2 3).setV 0xF 1)
      (fun t => (t.readV 1, t.readV 0xF)) = some (0xF9, 0) := by
  decide

/-- V-ALU33. -/
theorem test_shl :
    run1 0x810E (State.reset.setV 1 0x81)
      (fun t => (t.readV 1, t.readV 0xF)) = some (2, 1) := by
  decide

/-- V-ALU36. -/
theorem test_shl_on_vf : run1 0x8F0E (State.reset.setV 0xF 0xC1) (fun t => t.readV 0xF) = some 0x82 := by decide

/-- V-MEM2. -/
theorem test_ldI : run1 0xAFFF State.reset (fun t => (t.i, t.pc)) = some (0xFFF, 0x202) := by decide

/-- V-MEM4. -/
theorem test_addI_wraps_without_a_flag :
    run1 0xF21E ((State.reset.setI 0xFFF).setV 2 1)
      (fun t => (t.i, t.readV 0xF)) = some (0, 0) := by
  decide

/-- V-MEM5. -/
theorem test_addI_wraps : run1 0xF21E ((State.reset.setI 0xFFF).setV 2 0xFF) (fun t => t.i) = some 0x0FE := by decide

/-- V-MEM6. -/
theorem test_ldF : run1 0xF229 ((State.reset.setI 0x123).setV 2 4) (fun t => t.i) = some 0x014 := by decide

/-- V-MEM8. -/
theorem test_ldF_whole_byte : run1 0xF229 (State.reset.setV 2 0xFF) (fun t => t.i) = some 0x4FB := by decide

/-- V-MEM9. -/
theorem test_ldB :
    run1 0xF533 ((State.reset.setI 0x300).setV 5 0xEA)
      (fun t => Memory.readBytes t.mem 0x300 3) = some [2, 3, 4] := by
  decide

/-- V-MEM12. -/
theorem test_ldB_out_of_bounds :
    run1 0xF533 ((State.reset.setI 0xFFE).setV 5 0xFF)
      (fun t => (t.pc, Memory.read t.mem 0xFFE, t.fault)) = some (0x200, 0, some ⟨.memoryOutOfBounds, 0x1000, 0x200⟩) := by
  decide

/-- V-MEM13. -/
theorem test_stRegs :
    run1 0xF255 ((((State.reset.setI 0x300).setV 0 0x11).setV 1 0x22).setV 2 0x33)
      (fun t => (Memory.readBytes t.mem 0x300 4, t.i)) = some ([0x11, 0x22, 0x33, 0], 0x300) := by
  decide

/-- V-MEM15. -/
theorem test_stRegs_out_of_bounds :
    run1 0xFF55 ((State.reset.setI 0xFF1).setV 0 0x55)
      (fun t => (t.pc, Memory.read t.mem 0xFF1, t.fault)) = some (0x200, 0, some ⟨.memoryOutOfBounds, 0x1000, 0x200⟩) := by
  decide

/-- V-MEM17. -/
theorem test_ldRegs :
    run1 0xF265 ((withBytes 0x300 [2, 3, 4, 5] (State.reset.setI 0x300)).setV 3 0xEE)
      (fun t => (t.readV 0, t.readV 1, t.readV 2, t.readV 3, t.i)) = some (2, 3, 4, 0xEE, 0x300) := by
  decide

/-- V-MEM19. -/
theorem test_ldRegs_out_of_bounds :
    run1 0xF165 (((State.reset.setI 0xFFF).setV 0 1).setV 1 2)
      (fun t => (t.readV 0, t.readV 1, t.fault)) = some (1, 2, some ⟨.memoryOutOfBounds, 0x1000, 0x200⟩) := by
  decide

/-- V-DSP1. -/
theorem test_cls :
    run1 0x00E0 (withPixel 0 0 (withPixel 63 31 State.reset))
      (fun t => (pixel t.disp 0 0, pixel t.disp 31 63, t.dirty, t.pc)) = some (false, false, true, 0x202) := by
  decide

/-- V-DSP5. -/
theorem test_drw_wraps_on_both_axes :
    run1 0xDAB2 (((withBytes 0x300 [0xC3, 0x81] (State.reset.setI 0x300)).setV 0xA 0x3E).setV 0xB 0x1F)
      (fun t => ([(31, 62), (31, 63), (31, 4), (31, 5), (0, 62), (0, 5), (0, 63)].map (fun p => pixel t.disp p.1 p.2), t.readV 0xF)) = some ([true, true, true, true, true, true, false], 0) := by
  decide

/-- V-DSP7. -/
theorem test_drw_collision :
    run1 0xD121 (withPixel 3 1 ((((withBytes 0x300 [0xF0] (State.reset.setI 0x300)).setV 1 2).setV 2 1)))
      (fun t => ([2, 3, 4, 5].map (fun c => pixel t.disp 1 c), t.readV 0xF, t.dirty)) = some ([true, false, true, true], 1, true) := by
  decide

/-- V-TK1. -/
theorem test_ldVxDt : run1 0xF307 (State.reset.setDt 42) (fun t => (t.readV 3, t.dt)) = some (0x2A, 42) := by decide

/-- V-TK3. -/
theorem test_ldDtVx : run1 0xF015 (State.reset.setDt 9) (fun t => t.dt) = some 0 := by decide

/-- V-TK4. -/
theorem test_ldStVx :
    run1 0xF418 (State.reset.setV 4 2)
      (fun t => (t.st, t.dt, t.tone)) = some (2, 0, true) := by
  decide

/-- V-TK5. -/
theorem test_skp_pressed :
    run1 0xE29E (((at' 0x20C).setV 2 5).setKey 5 true)
      (fun t => t.pc) = some 0x210 := by
  decide

/-- V-TK9. -/
theorem test_skp_index_out_of_range :
    run1 0xE29E (State.reset.setV 2 0x10)
      (fun t => (t.pc, t.fault)) = some (0x200, some ⟨.keyIndexOutOfRange, 16, 0x200⟩) := by
  decide

/-- V-TK7. -/
theorem test_sknp_not_pressed : run1 0xE2A1 ((at' 0x20C).setV 2 5) (fun t => t.pc) = some 0x210 := by decide

/-- V-TK8. -/
theorem test_sknp_pressed :
    run1 0xE2A1 (((at' 0x20C).setV 2 5).setKey 5 true)
      (fun t => t.pc) = some 0x20E := by
  decide

/-- V-TK12. -/
theorem test_ldVxK : run1 0xF20A (at' 0x20A) (fun t => (t.pc, t.await)) = some (0x20A, .waiting 2) := by decide

/-- V-ALU39, the sample being the free value: only the masked bits can be set, whatever it is. -/
theorem test_rnd_masks_the_sample :
    run1 0xC10F (State.reset.setV 1 0xAA) (fun t => (t.readV 1, t.rndCount, t.pc))
      = some (Config.rnd 0 &&& 0x0F, 1, 0x202) := by
  rfl

/-- V-ALU40. -/
theorem test_rnd_with_mask_zero :
    run1 0xC100 (State.reset.setV 1 0xAA) (fun t => t.readV 1) = some (Config.rnd 0 &&& 0) := by
  rfl

/-- V-MEM18: only under the hypothesis that `FONT` is the customary table. -/
theorem test_font_is_read_through_its_hypothesis (h : Config.FontIsCustomary) :
    Memory.read State.reset.mem 4 = 0xF0 := by
  exact h 4 (by decide)

/-! ### The cycle and the host's steps -/

/-- V-DEC1, all but the counter. -/
theorem test_unrecognised_word :
    (run1 0x0000 State.reset (fun t => (t.pc, t.fault)), (withWord 0 State.reset).outcome)
      = (some (0x202, none), some (.decodeFault 0)) := by
  decide

/-- V-DEC1, the counter: under the hypothesis that it is unbounded. -/
theorem test_unrecognised_word_is_counted (h : Config.DfcIsUnbounded) :
    run1 0x0000 State.reset (fun t => t.dfc) = some 1 := by
  have e : run1 0x0000 State.reset (fun t => t.dfc) = some (dfcIncrement Config.dfcWidth 0) := rfl
  rw [e, h]
  rfl

/-- U16: a counter of 8 bits saturates. -/
theorem test_counter_saturates : [253, 254, 255].map (dfcIncrement (some 8)) = [254, 255, 255] := by decide

/-- V-DEC11: an odd `pc` is no fault. -/
theorem test_odd_pc : run1 0x6005 (at' 0x201) (fun t => (t.readV 0, t.pc)) = some (5, 0x203) := by decide

/-- V-DEC13. -/
theorem test_fetch_out_of_bounds :
    (after (step (at' 0xFFF)) (fun t => (t.pc, t.fault)), (at' 0xFFF).outcome)
      = (some (0xFFF, some ⟨.fetchOutOfBounds, 0xFFF, 0xFFF⟩), some (.fatal .fetchOutOfBounds 0xFFF)) := by
  decide

/-- A state halted by V-CT13. -/
def haltedState : State := { State.reset with fault := some ⟨.stackUnderflow, 0, 0x200⟩, dt := 3, loadOpen := false }

/-- The state of V-HOST8: waiting for `V[2]` at 0x20A. -/
def waitingState : State :=
  ((withWord 0xF20A (at' 0x20A)).setAwait (.waiting 2)).closeLoad

/-- V-HOST15: a step strobe on a halted machine. -/
theorem test_halted : (after (step haltedState) (fun t => decide (t = haltedState)), haltedState.outcome)
    = (some true, some (.halted .stackUnderflow)) := by
  decide

/-- V-HOST11. -/
theorem test_waiting : (after (step waitingState) (fun t => decide (t = waitingState)), waitingState.outcome)
    = (some true, some .waiting) := by
  decide

/-- V-HOST1, V-HOST15: timers count down to 0 and stay there, halted or not. -/
theorem test_tick : serve .tick haltedState (fun t => (t.dt, t.st)) = some (2, 0) := by decide

/-- V-HOST8. -/
theorem test_key_ends_the_wait :
    serve (.key 7 true) waitingState (fun t => (t.readKey 7, t.readV 2, t.await, t.pc))
      = some (true, 7, .none, 0x20C) := by
  decide

/-- V-HOST9: no transition, no end. -/
theorem test_key_held_does_not_end_the_wait :
    serve (.key 7 true) (waitingState.setKey 7 true) (fun t => (t.readV 2, t.await, t.pc))
      = some (0, .waiting 2, 0x20A) := by
  decide

/-- V-HOST7. -/
theorem test_key_up : serve (.key 5 false) (State.reset.setKey 5 true) (fun t => t.readKey 5) = some false := by decide

/-- V-HOST14. -/
theorem test_flush :
    (serve .flush ((withPixel 1 0 State.reset).setDisp (withPixel 1 0 State.reset).disp true) (fun t => (t.dirty, pixel t.disp 0 1)),
      State.reset.flushedFrame) = (some (false, true), none) := by
  decide

/-- R74: the image goes to 0x200 and up, once. -/
theorem test_load :
    (serve (.load [0x12, 0x34, 0x56]) State.reset (fun t => (Memory.readBytes t.mem 0x200 4, t.loadOpen)),
      serve (.load [0x12]) haltedState (fun t => t.pc)) = (some ([0x12, 0x34, 0x56, 0], false), none) := by
  decide

/-- V-HOST16: `RESET` takes the program and the fault away. -/
theorem test_reset :
    serve .reset (withWord 0x00EE haltedState) (fun t => (t.fault, t.dt, Memory.readBytes t.mem 0x200 2, t.loadOpen))
      = some (none, 0, [0, 0], true) := by
  decide

/-! ### Witnesses: a state and operands that meet the hypotheses of each obligation, clause by clause -/

/-- EveryRecognisedWordIsTheEncodingOfItsInstruction: a word with an ignored field. -/
theorem witness_recognised_word : decodeWord 0x8176#16 = .ok (.shr 1 7) := by decide

/-- DecoderAgreesWithTheOpcodeTable: a word no row accepts, and one that decodes. -/
theorem witness_table : (∀ r ∈ opcodeTable, ¬ r.accepts 0x8008#16) ∧ decodeWord 0x800E#16 = .ok (.shl 0 0) := by decide

/-- NoTwoOpcodeRowsAcceptTheSameWord: a row that accepts a word. -/
theorem witness_row : ∃ r, opcodeTable[17]? = some r ∧ r.accepts 0x800E#16 := by
  refine ⟨_, rfl, ?_⟩
  decide

/-- FetchIsBigEndianAndBoundedAtTheTop: both sides of the bound. -/
theorem witness_fetch : (at' 0xFFE).pc.toNat + 1 ≤ 0xFFF ∧ (at' 0xFFF).pc.toNat + 1 > 0xFFF := by decide

/-- StepRunsTheInstructionAtPc, at the highest address that can be fetched. -/
theorem witness_step :
    let s := withWord 0x1234 (at' 0xFFE)
    s.nextStrobe = .exec ∧ s.fault = none ∧ s.await = .none ∧ s.pc.toNat + 1 ≤ 0xFFF ∧
      decodeBytes (Memory.readBytes s.mem s.pc.toNat 2) = .ok (.jp 0x234, []) := by
  decide

/-- StrobeWhileHaltedOrWaitingChangesNothing: a halted and a waiting state. -/
theorem witness_halted_waiting :
    haltedState.nextStrobe = .exec ∧ haltedState.fault = some ⟨.stackUnderflow, 0, 0x200⟩ ∧
    waitingState.nextStrobe = .exec ∧ waitingState.fault = none ∧ waitingState.await = .waiting 2 := by
  decide

/-- UnrecognisedWordIsCountedAndSkipped, at the highest address. -/
theorem witness_unrecognised :
    let s := at' 0xFFE
    s.nextStrobe = .exec ∧ s.fault = none ∧ s.await = .none ∧ s.pc.toNat + 1 ≤ 0xFFF ∧
      ∀ r ∈ opcodeTable, ¬ r.accepts s.wordAtPc := by
  decide

/-- FetchOutOfBoundsIsLatched, at the lowest such address. -/
theorem witness_fetch_fault :
    let s := at' 0xFFF
    s.nextStrobe = .exec ∧ s.fault = none ∧ s.await = .none ∧ s.pc.toNat + 1 > 0xFFF := by
  decide

/-- ReportedOutcomeIsWhatHappened: a cycle that answers a next state, for each outcome. -/
theorem witness_outcomes :
    [withWord 0x6005 State.reset, waitingState, State.reset, at' 0xFFF, withWord 0x00EE State.reset, haltedState].map
        (fun s => (s.outcome, (after s.execCycle fun _ => true)))
      = [(some .ok, some true), (some .waiting, some true), (some (.decodeFault 0), some true),
         (some (.fatal .fetchOutOfBounds 0xFFF), some true), (some (.fatal .stackUnderflow 0), some true),
         (some (.halted .stackUnderflow), some true)] := by
  decide

/-- DecodeFaultCounterCountsUpToItsWidth: both sides of the bound of a counter of 8 bits. -/
theorem witness_counter : 254 < 2 ^ 8 ∧ 254 + 1 < 2 ^ 8 ∧ 2 ^ 8 ≤ 254 + 2 := by decide

/-- ZeroMemoryIsWalkedThroughByDecodeFaults: the whole program region, empty. -/
theorem witness_zero_memory :
    let s := State.reset
    s.fault = none ∧ s.await = .none ∧ s.schedule = [] ∧ s.pc.toNat + 2 * 0x700 ≤ 0x1000 ∧
      ∀ a, s.pc.toNat ≤ a → a < s.pc.toNat + 2 * 0x700 → Memory.read s.mem a = 0 := by
  refine ⟨rfl, rfl, rfl, by decide, ?_⟩
  intro a h _
  have h' : 0x200 ≤ a := h
  exact if_neg (by simp only [Config.fontLen]; omega)

/-- EveryInstructionCompletesAndKeepsItsFrame: the instructions that can fault, just inside their bounds. -/
theorem witness_completes :
    [raises (withStack 14 1 0 State.reset) (.call 0x300), raises (withStack 15 15 0x222 State.reset) .ret,
      raises (withStack 1 1 0x222 State.reset) .ret, raises (State.reset.setI 0xFFF) (.drw 0 0 1),
      raises (State.reset.setI 0xFFFF) (.drw 0 0 0), raises (State.reset.setI 0xFFD) (.ldB 5),
      raises (State.reset.setI 0xFF0) (.stRegs 0xF), raises (State.reset.setI 0xFFF) (.ldRegs 0),
      raises (State.reset.setV 2 15) (.skp 2), raises (State.reset.setV 2 15) (.sknp 2), raises State.reset .cls]
      = List.replicate 11 none ∧
    (withStack 15 15 0x222 State.reset).sp.toNat ≤ 15 := by
  decide

/-- EveryExecutionFaultIsPrecise: each fault, just outside its bound. -/
theorem witness_faults :
    [raises (withStack 15 1 0 State.reset) (.call 0x300), raises State.reset .ret,
      raises (State.reset.setI 0xFFF) (.drw 0 0 2), raises (State.reset.setI 0xFFE) (.ldB 5),
      raises (State.reset.setI 0xFF1) (.stRegs 0xF), raises (State.reset.setI 0xFFF) (.ldRegs 1),
      raises (State.reset.setV 2 16) (.skp 2), raises (State.reset.setV 2 255) (.sknp 2)]
      = [some ⟨.stackOverflow, 15⟩, some ⟨.stackUnderflow, 0⟩, some ⟨.memoryOutOfBounds, 0x1000⟩,
         some ⟨.memoryOutOfBounds, 0x1000⟩, some ⟨.memoryOutOfBounds, 0x1000⟩, some ⟨.memoryOutOfBounds, 0x1000⟩,
         some ⟨.keyIndexOutOfRange, 16⟩, some ⟨.keyIndexOutOfRange, 255⟩] := by
  decide

/-- OnlyAReturnWithoutAStackEntryStops: both sides of the bound. -/
theorem witness_stop :
    (Instr.ret = .ret ∧ (withStack 16 1 0 State.reset).sp.toNat > 15) ∧
    ¬(Instr.ret = .ret ∧ (withStack 15 1 0 State.reset).sp.toNat > 15) := by
  decide

/-- FlagWritersLeaveZeroOrOne: each of the six, and a register other than F. -/
theorem witness_flag_writers :
    (1 : Reg) ≠ VF ∧ (∃ t, exec (.addReg 1 2) State.reset = .next t) ∧ (∃ t, exec (.subReg 1 2) State.reset = .next t) ∧
    (∃ t, exec (.shr 1 2) State.reset = .next t) ∧ (∃ t, exec (.subnReg 1 2) State.reset = .next t) ∧
    (∃ t, exec (.shl 1 2) State.reset = .next t) ∧
    ((∃ t, exec (.drw 1 2 5) State.reset = .next t) ∧ raises State.reset (.drw 1 2 5) = none) :=
  ⟨by decide, ⟨_, rfl⟩, ⟨_, rfl⟩, ⟨_, rfl⟩, ⟨_, rfl⟩, ⟨_, rfl⟩, ⟨_, rfl⟩, by decide⟩

/-- InstructionsDoNotReadSoundTimerDirtyCounterOrKeys: an instruction other than the key skips. -/
theorem witness_not_a_key_skip :
    (∀ x, Instr.ldVxK 3 ≠ .skp x) ∧ (∀ x, Instr.ldVxK 3 ≠ .sknp x) := by
  constructor <;> intro x h <;> cases h

/-- EveryStepKeepsTheInvariants and AnObedientHostIsNeverRefused: the invariants hold while waiting. -/
theorem witness_inv : Inv waitingState := by
  constructor
  · decide
  · decide
  · decide
  · intro k hk
    have h : waitingState.stack = Vector.replicate 16 0 := rfl
    simp [h]
  · decide
  · decide
  · intro x h
    have hx : waitingState.await = .waiting 2 := rfl
    rw [hx] at h
    cases h
    decide
  · intro h
    cases h
  · intro width _
    exact Nat.two_pow_pos width

/-- EveryStepKeepsTheInvariants: that state has a next state. -/
theorem witness_inv_step : after (step (waitingState.setSchedule [.key 7 true])) (fun t => t.readV 2) = some 7 := by
  decide

/-- EveryReachableStateMeetsTheInvariants: a state after a load and one instruction. -/
theorem witness_reachable :
    ∃ t, Reachable t ∧ t.pc = 0x20A :=
  ⟨_, .step (.step (.reset [.load [0x12, 0x0A]]) rfl) rfl, by decide⟩

/-- FaultRecordStaysAndCountGrowsUntilReset: a step of a halted machine. -/
theorem witness_halted_step :
    (∃ t, step haltedState = .next t) ∧ haltedState.nextStrobe ≠ .reset ∧
    haltedState.fault = some ⟨.stackUnderflow, 0, 0x200⟩ :=
  ⟨⟨_, rfl⟩, by decide, rfl⟩

/-- AnObedientHostIsNeverRefused: a schedule the waiting machine's host may issue. -/
theorem witness_obedient :
    scheduleWellFormed waitingState.loadOpen [.tick, .key 7 true, .exec, .flush, .reset, .load [0x12]] = true := by
  decide

/-- TickCountsBothTimersDown, KeyEventSetsTheLevelAndMayEndTheWait, FlushCopiesTheFrameAndClearsDirty and
ResetRestoresEveryPieceOfState: the strobe comes next. -/
theorem witness_strobes :
    (waitingState.setSchedule [.tick]).nextStrobe = .tick ∧
    (waitingState.setSchedule [.key 7 true]).nextStrobe = .key 7 true ∧
    (waitingState.setSchedule [.flush]).nextStrobe = .flush ∧
    (waitingState.setSchedule [.reset]).nextStrobe = .reset := by
  decide

/-- KeyEventSetsTheLevelAndMayEndTheWait: a transition during a wait, and each way of its being none. -/
theorem witness_key_clauses :
    (waitingState.await = .waiting 2 ∧ waitingState.readKey 7 = false ∧ (3 : Nibble) ≠ 7 ∧ (3 : Reg) ≠ 2) ∧
    State.reset.await = .none ∧ (waitingState.setKey 7 true).readKey 7 = true := by
  decide

/-- FlushCopiesTheFrameAndClearsDirty: `dirty` set and clear. -/
theorem witness_dirty :
    (State.reset.setDisp State.reset.disp true).dirty = true ∧ State.reset.dirty = false := by
  decide

/-- LoadCopiesTheImageVerbatim: the longest image, and both edges of the addresses it leaves alone. -/
theorem witness_load :
    let bytes := List.replicate 3584 (0x12 : Byte)
    (State.reset.setSchedule [.load bytes]).nextStrobe = .load bytes ∧ State.reset.loadOpen = true ∧
      bytes.length ≤ 3584 ∧ 3583 < bytes.length ∧ (0x1FF < 0x200 ∨ 0x200 + bytes.length ≤ 0x1FF) ∧
      (0x1000 < 0x200 ∨ 0x200 + bytes.length ≤ 0x1000) := by
  refine ⟨rfl, rfl, ?_, ?_, .inl (by decide), .inr ?_⟩ <;> rw [List.length_replicate]
  decide

/-- LoadIsRefusedOutsideItsWindowOrBounds: a closed window, and the shortest image that is too long. -/
theorem witness_load_refused :
    waitingState.loadOpen = false ∧ (waitingState.setSchedule [.load []]).nextStrobe = .load [] ∧
    State.reset.loadOpen = true ∧ (List.replicate 3585 (0x12 : Byte)).length > 3584 := by
  refine ⟨rfl, rfl, rfl, ?_⟩
  rw [List.length_replicate]
  decide

/-- CallPushesTheReturnAddressOrOverflows and ReturnUndoesACall: both sides of the bound. -/
theorem witness_call : (withStack 14 1 0 State.reset).sp.toNat < 15 ∧ 15 ≤ (withStack 15 1 0 State.reset).sp.toNat := by
  decide

/-- ReturnPopsTheStackOrUnderflows: the first and the last entry, and none. -/
theorem witness_ret :
    (1 ≤ (withStack 1 1 0x206 State.reset).sp.toNat ∧ (withStack 1 1 0x206 State.reset).sp.toNat ≤ 15) ∧
    (1 ≤ (withStack 15 15 0x206 State.reset).sp.toNat ∧ (withStack 15 15 0x206 State.reset).sp.toNat ≤ 15) ∧
    State.reset.sp.toNat = 0 := by
  decide

/-- ImmediateSkipsCompareARegister and RegisterSkipsCompareTwoRegisters: equal and different operands, and a low
digit that is no instruction. -/
theorem witness_skips :
    ((State.reset.setV 1 0xA6).readV 1).toNat = (0xA6 : Byte).toNat ∧
    ((State.reset.setV 1 0xA7).readV 1).toNat ≠ (0xA6 : Byte).toNat ∧
    (State.reset.readV 1).toNat = (State.reset.readV 2).toNat ∧
    ((State.reset.setV 1 0xA7).readV 1).toNat ≠ ((State.reset.setV 1 0xA7).readV 2).toNat ∧ (1 : Nibble) ≠ 0 := by
  decide

/-- LogicOperationsWorkBitByBit, AddRegisterSetsTheCarry, SubtractionsSetNoBorrow, ShiftsMoveOneBitAndIgnoreY and
RandomByteIsOneFreshMaskedSample: a bit number, a register other than F, and the two masks. -/
theorem witness_alu : 7 < 8 ∧ (0xE : Reg) ≠ VF ∧ (0 : Byte) = 0 ∧ (0xFF : Byte) = 0xFF := by decide

/-- DecimalDigitsAreStoredOrNothingIs: both sides of the bound. -/
theorem witness_decimal :
    (State.reset.setI 0xFFD).dataBase + 2 ≤ 0xFFF ∧ (State.reset.setI 0xFFE).dataBase + 2 > 0xFFF := by
  decide

/-- RegistersAreStoredOrNothingIs, RegistersAreLoadedOrNoneIs and StoredRegistersComeBackWhenLoaded: both sides of
the bound, and a register in and one out of the range. -/
theorem witness_register_block :
    (State.reset.setI 0xFF0).dataBase + (0xF : Reg).toNat ≤ 0xFFF ∧
    (State.reset.setI 0xFF1).dataBase + (0xF : Reg).toNat > 0xFFF ∧ (0xF : Reg).toNat ≤ (0xF : Reg).toNat := by
  decide

/-- StoredRegistersComeBackWhenLoaded: a state with the index and the memory the store leaves. -/
theorem witness_register_block_later :
    ∃ t, exec (.stRegs 0xF) (State.reset.setI 0xFF0) = .next t ∧
      ∃ u : State, u ≠ t ∧ u.i = t.i ∧ u.mem = t.mem := by
  refine ⟨_, rfl, State.setV _ 3 9, ?_, rfl, rfl⟩
  intro h
  exact absurd (congrArg (fun s => s.readV 3) h) (by decide)

/-- AStoredInstructionIsFetchedNext. -/
theorem witness_stored_instruction :
    1 ≤ (1 : Reg).toNat ∧ (State.reset.setI 0x202).dataBase = (State.reset.setI 0x202).pc.toNat + 2 ∧
    (State.reset.setI 0x202).dataBase + (1 : Reg).toNat ≤ 0xFFF := by
  decide

/-- DrawSpriteXorsTheSpriteIntoTheDisplay: a longest sprite, and a pixel its last row wraps onto. -/
theorem witness_sprite :
    (List.replicate 15 (0x81 : Byte)).length ≤ 15 ∧ spriteHits 60 20 (List.replicate 15 (0x81 : Byte)) 2 3 ∧
    ¬ spriteHits 60 20 (List.replicate 15 (0x81 : Byte)) 3 3 := by
  refine ⟨by decide, ⟨14, 7, by decide, by decide⟩, ?_⟩
  rintro ⟨i, j, hi, -, -, hr, -⟩
  have : i < 15 := hi
  have : 3 = (20 + i) % 32 := hr
  omega

/-- DrawPutsTheSpriteAndTheCollision and DrawingTwiceRestoresTheDisplay: the empty sprite anywhere, the last byte
of memory, and one byte too many. -/
theorem witness_draw :
    ((0 : Nibble) = 0 ∨ (State.reset.setI 0xFFFF).dataBase + (0 : Nibble).toNat - 1 ≤ 0xFFF) ∧
    ((1 : Nibble) = 0 ∨ (State.reset.setI 0xFFF).dataBase + (1 : Nibble).toNat - 1 ≤ 0xFFF) ∧
    ((2 : Nibble) ≠ 0 ∧ (State.reset.setI 0xFFF).dataBase + (2 : Nibble).toNat - 1 > 0xFFF) := by
  decide

/-- DrawingTwiceRestoresTheDisplay: a state the second draw may come from, after a first draw without a
collision. -/
theorem witness_second_draw :
    let s := withBytes 0x300 [0xFF] (State.reset.setI 0x300)
    ∃ t, exec (.drw 1 2 1) s = .next t ∧ t.readV VF = 0 ∧ t.disp = t.disp ∧ t.mem = s.mem ∧ t.i = s.i ∧
      t.readV 1 = s.readV 1 ∧ t.readV 2 = s.readV 2 :=
  ⟨_, rfl, by decide, rfl, rfl, rfl, rfl, rfl⟩

/-- KeySkipsTestTheLevelOrFault: the highest index with the key up and down, and the lowest that does not exist. -/
theorem witness_key_skips :
    ∃ h : ((State.reset.setV 2 15).readV 2).toNat ≤ 15, ∃ h' : (((State.reset.setV 2 15).setKey 15 true).readV 2).toNat ≤ 15,
      (State.reset.setV 2 15).keys[((State.reset.setV 2 15).readV 2).toNat] = false ∧
      ((State.reset.setV 2 15).setKey 15 true).keys[(((State.reset.setV 2 15).setKey 15 true).readV 2).toNat] = true ∧
      ((State.reset.setV 2 16).readV 2).toNat > 15 :=
  ⟨by decide, by decide, by decide, by decide, by decide⟩

/-- WaitForKeyHoldsUntilAKeyGoesDown. -/
theorem witness_wait : State.reset.fault = none ∧ State.reset.readKey 0xF = false := by decide

end Sys2Proof.Tests
end

section
/-! PROOFS. The decode-fault counter over a run of decode faults (R6, R38, U16; log entry 4): the closed form
`dfcAfter` is the iterate of `dfcIncrement`, and what it is on either side of the maximum of a finite width. -/

namespace Sys2Proof.Machine

/-! ### The closed form, one decode fault at a time -/

@[simp] theorem dfcAfter_none (n c : Nat) : dfcAfter none n c = c + n := rfl

@[simp] theorem dfcAfter_zero (width : Option Nat) (c : Nat) : dfcAfter width 0 c = c := by
  cases width with
  | none => rfl
  | some w => exact max_eq_left (min_le_left c _)

/-- A further fault adds one to the closed form while it is below the maximum, where the increment has room, and
leaves it at or above the maximum, where the increment stays. -/
theorem dfcAfter_succ (width : Option Nat) (n c : Nat) :
    dfcAfter width (n + 1) c = dfcIncrement width (dfcAfter width n c) := by
  cases width with
  | none => rfl
  | some w =>
    by_cases room : dfcAfter (some w) n c + 1 < 2 ^ w
    · rw [dfcIncrement_of_room room]
      simp only [dfcAfter] at room ⊢
      omega
    · rw [dfcIncrement_of_full (Nat.le_of_not_lt room)]
      simp only [dfcAfter] at room ⊢
      omega

/-- The closed form is the counter after `n` decode faults, for every width and from every value. -/
theorem dfcIncrement_iterate (width : Option Nat) (n c : Nat) : (dfcIncrement width)^[n] c = dfcAfter width n c := by
  induction n with
  | zero => exact (dfcAfter_zero width c).symm
  | succ n ih => rw [Function.iterate_succ_apply', ih, dfcAfter_succ]

/-! ### The closed form on either side of the maximum -/

/-- A finite counter that has room for the sum holds it. -/
theorem dfcAfter_of_room {w n c : Nat} (h : c + n < 2 ^ w) : dfcAfter (some w) n c = c + n := by
  simp only [dfcAfter]
  omega

/-- A finite counter within its width that has no room for the sum is at its maximum. -/
theorem dfcAfter_of_full {w n c : Nat} (hc : c < 2 ^ w) (h : 2 ^ w ≤ c + n) :
    dfcAfter (some w) n c = 2 ^ w - 1 := by
  simp only [dfcAfter]
  omega

/-- Settles O13, from the closed form of the iterated increment. -/
theorem decodeFaultCounterCountsUpToItsWidth : Obligations.DecodeFaultCounterCountsUpToItsWidth := by
  intro n c
  refine ⟨?unbounded, fun w hc => ⟨fun room => ?room, fun full => ?full⟩, fun width => dfcIncrement_iterate width n c⟩
  case unbounded => rw [dfcIncrement_iterate, dfcAfter_none]
  case room => rw [dfcIncrement_iterate, dfcAfter_of_room room]
  case full => rw [dfcIncrement_iterate, dfcAfter_of_full hc full]

end Sys2Proof.Machine
end

section
/-! PROOFS. What one instruction does, as one equation: the fault it raises (`raises`, R180) is latched, or its writes
beside `pc` (`effect`, the "w" entries of R43) are made and `pc` goes where R25 says (`pcAfter`).  Every rule about all
instructions (R22, R25, R42, R43, R180) is read off this equation. -/

namespace Sys2Proof.Machine

/-! ### The writes of an instruction beside `pc` -/

/-- `V` with one register per byte of a list loaded from register `k` up (R155). -/
def loadV : Nat → List Byte → Vector Byte 16 → Vector Byte 16
  | _, [], v => v
  | k, b :: bs, v => loadV (k + 1) bs (v.set (BitVec.ofNat 4 k).toNat b (BitVec.ofNat 4 k).isLt)

theorem State.setVFrom_eq_loadV (bytes : List Byte) (k : Nat) (s : State) :
    State.setVFrom k bytes s = { s with v := loadV k bytes s.v } := by
  induction bytes generalizing k s with
  | nil => rfl
  | cons b bs ih => rw [State.setVFrom, ih]; rfl

/-- What an instruction that raises no fault writes beside `pc` (R43). -/
def effect (s : State) : Instr → State
  | .cls => s.setDisp blankDisplay true
  | .ret => s.dropTop
  | .call _ => { s with sp := s.sp + 1, stack := s.stack.setIfInBounds (s.sp.toNat + 1) (s.pc + 2) }
  | .ldImm x kk => s.setV x kk
  | .addImm x kk => s.setV x (sum8 (s.readV x) kk)
  | .ldReg x y => s.setV x (s.readV y)
  | .orReg x y => s.setV x (s.readV x ||| s.readV y)
  | .andReg x y => s.setV x (s.readV x &&& s.readV y)
  | .xorReg x y => s.setV x (s.readV x ^^^ s.readV y)
  | .addReg x y => (s.setV VF (carryFlag (s.readV x) (s.readV y))).setV x (sum8 (s.readV x) (s.readV y))
  | .subReg x y => (s.setV VF (noBorrowFlag (s.readV x) (s.readV y))).setV x (difference8 (s.readV x) (s.readV y))
  | .shr x _ => (s.setV VF (shiftRightFlag (s.readV x))).setV x (shiftRight8 (s.readV x))
  | .subnReg x y => (s.setV VF (noBorrowFlag (s.readV y) (s.readV x))).setV x (difference8 (s.readV y) (s.readV x))
  | .shl x _ => (s.setV VF (shiftLeftFlag (s.readV x))).setV x (shiftLeft8 (s.readV x))
  | .ldI nnn => s.setI (absolute nnn)
  | .rnd x kk => (s.setV x (Config.rnd s.rndCount &&& kk)).countSample
  | .drw x y n => (s.drawn x y (Memory.readBytes s.mem s.dataBase n.toNat)).setPc s.pc
  | .ldVxDt x => s.setV x s.dt
  | .ldVxK x => s.setAwait (.waiting x)
  | .ldDtVx x => s.setDt (s.readV x)
  | .ldStVx x => s.setSt (s.readV x)
  | .addI x => s.setI (indexSum s.i (s.readV x))
  | .ldF x => s.setI (glyphAddress (s.readV x))
  | .ldB x => s.setMem (Memory.writeBytes s.mem s.dataBase (decimalDigits (s.readV x)))
  | .stRegs x => s.setMem (Memory.writeBytes s.mem s.dataBase (s.regsUpTo x))
  | .ldRegs x => { s with v := loadV 0 (Memory.readBytes s.mem s.dataBase (x.toNat + 1)) s.v }
  | .jp _ | .jpV0 _ | .seImm _ _ | .sneImm _ _ | .seReg _ _ | .sneReg _ _ | .skp _ | .sknp _ => s

/-- The state a completed instruction leaves: its writes, then `pc` (R25, R43). -/
def completed (s : State) (i : Instr) : State := (effect s i).setPc (pcAfter s i)

/-! ### The shared checks, in the terms of `raises` -/

theorem State.memRead_dataBase (s : State) (n : Nat) :
    s.memRead s.dataBase n = (dataFault s n).elim (.ok (Memory.readBytes s.mem s.dataBase n)) .error := by
  unfold State.memRead dataFault
  split <;> rfl

theorem State.memWrite_dataBase (s : State) (bytes : List Byte) :
    s.memWrite s.dataBase bytes
      = (dataFault s bytes.length).elim (.ok (s.setMem (Memory.writeBytes s.mem s.dataBase bytes))) .error := by
  unfold State.memWrite dataFault
  split <;> rfl

/-- A checked write of a vector entry is the write, where the entry exists. -/
theorem setIfInBounds_of_lt {α : Type} {n k : Nat} (v : Vector α n) (a : α) (h : k < n) :
    v.setIfInBounds k a = v.set k a h := by
  apply Vector.ext
  intro j hj
  rw [Vector.getElem_setIfInBounds, Vector.getElem_set]

/-- The push of a call, in the terms of R183. -/
theorem State.push_pc_add_two (s : State) (nnn : Address) :
    s.push (s.pc + 2) = (raises s (.call nnn)).elim (.ok (effect s (.call nnn))) .error := by
  rcases s.push_cases (s.pc + 2) with ⟨room, h⟩ | ⟨full, h⟩
  · rw [h, raises, if_neg (Nat.not_le_of_lt room), effect,
      setIfInBounds_of_lt _ _ (show s.sp.toNat + 1 < 16 by omega)]
    rfl
  · rw [h, raises, if_pos full]
    rfl

theorem keyIndexMode_readV (s : State) (x : Reg) :
    keyIndex Config.keyIndexMode (s.readV x)
      = (keyFault s x).elim (.ok ((s.readV x).setWidth 4)) .error := by
  unfold keyFault
  rcases keyIndex_fault_cases (s.readV x) with ⟨low, h⟩ | ⟨high, h⟩
  · rw [if_neg (Nat.not_lt_of_le low)]
    exact h
  · rw [if_pos high]
    exact h

/-- The level of the key that `V[x]` names, for an index that exists. -/
theorem readKey_setWidth_readV {s : State} {x : Reg} (h : keyFault s x = none) :
    s.readKey ((s.readV x).setWidth 4) = keyHeld s x := by
  have low : (s.readV x).toNat < 16 := by
    by_contra high
    rw [keyFault, if_pos (by omega)] at h
    cases h
  have same : (s.readV x).toNat % 16 = (s.readV x).toNat := Nat.mod_eq_of_lt low
  simp [State.readKey, keyHeld, same, low]

/-- An instruction that ends in a checked operation and a write of the result. -/
theorem settle_map_elim {α : Type} (s : State) (raised : Option Trap) (a : α) (f : α → State) :
    settle s ((raised.elim (.ok a) .error : Except Trap α).map f) = .next (raised.elim (f a) s.takeFault) := by
  cases raised <;> rfl

/-- A key skip is a skip on the level of its key, or the fault of R186. -/
theorem skipOnKey_eq (s : State) (pressed : Bool) (x : Reg) :
    s.skipOnKey Config.keyIndexMode pressed x
      = .next ((keyFault s x).elim (s.skipIf (keyHeld s x == pressed)) s.takeFault) := by
  rw [State.skipOnKey, keyIndexMode_readV, settle_map_elim]
  cases h : keyFault s x with
  | none => rw [Option.elim_none, Option.elim_none, readKey_setWidth_readV h]
  | some e => rfl

/-! ### The equation -/

/-- `00EE` with `SP` above 15 stops (log entry 9). -/
theorem execRet_of_sp_gt {s : State} (h : s.sp.toNat > 15) : exec .ret s = .fault .stackPointerOutOfRange := by
  have nonzero : s.sp ≠ 0 := by
    intro zero
    simp [zero] at h
  rcases s.stackTop_cases with ⟨entry, -⟩ | ⟨-, hTop⟩
  · omega
  · rw [exec, execRet, if_neg nonzero, hTop]

/-- `00EE` on a stack entry that exists, or on the empty stack (R114, R184). -/
theorem execRet_of_sp_le {s : State} (h : s.sp.toNat ≤ 15) :
    exec .ret s = .next ((raises s .ret).elim (completed s .ret) s.takeFault) := by
  by_cases zero : s.sp = 0
  · rw [exec, execRet, if_pos zero, raises, if_pos (by rw [zero]; rfl)]
    rfl
  · have nonzero : s.sp.toNat ≠ 0 := fun e => zero (BitVec.eq_of_toNat_eq e)
    have inBounds : s.sp.toNat < 16 := Nat.lt_succ_of_le h
    rcases s.stackTop_cases with ⟨entry, hTop⟩ | ⟨none, -⟩
    · rw [exec, execRet, if_neg zero, hTop, raises, if_neg nonzero]
      simp [completed, effect, pcAfter, inBounds]
    · omega

/-- `nnn + V[0]` does not wrap in 16 bits (R113). -/
theorem State.indexedTarget_eq (s : State) (nnn : Address) :
    s.indexedTarget nnn = BitVec.ofNat 16 (nnn.toNat + (s.readV 0).toNat) := by
  apply BitVec.eq_of_toNat_eq
  have hn := nnn.isLt
  have hv := (s.readV 0).isLt
  simp [State.indexedTarget]

/-- One instruction on one state: its fault latched, or its writes and `pc` (R25, R43, R180). -/
theorem exec_eq (i : Instr) (s : State) (entry : i = .ret → s.sp.toNat ≤ 15) :
    exec i s = .next ((raises s i).elim (completed s i) s.takeFault) := by
  cases i with
  | ret => exact execRet_of_sp_le (entry rfl)
  | call nnn => rw [exec, execCall, State.push_pc_add_two s nnn, settle_map_elim]; rfl
  | jpV0 nnn => rw [exec, execJpV0, State.indexedTarget_eq]; rfl
  | sneImm x kk => simp [exec, execSneImm, raises, completed, effect, pcAfter, State.skipIf, skipTarget, bne]
  | sneReg x y => simp [exec, execSneReg, raises, completed, effect, pcAfter, State.skipIf, skipTarget, bne]
  | drw x y n => rw [exec, execDrw, State.memRead_dataBase, settle_map_elim]; rfl
  | skp x => rw [exec, execSkp, skipOnKey_eq, beq_true]; rfl
  | sknp x => rw [exec, execSknp, skipOnKey_eq, beq_false]; rfl
  | ldB x => rw [exec, execLdB, State.memWrite_dataBase, settle_map_elim]; rfl
  | stRegs x => rw [exec, execStRegs, State.memWrite_dataBase, settle_map_elim, State.length_regsUpTo]; rfl
  | ldRegs x => rw [exec, execLdRegs, State.memRead_dataBase, settle_map_elim, State.setVFrom_eq_loadV]; rfl
  | _ => rfl

/-- An instruction that raises no fault completes. -/
theorem exec_of_raises_none {i : Instr} {s : State} (h : raises s i = none) (entry : i = .ret → s.sp.toNat ≤ 15) :
    exec i s = .next (completed s i) := by
  rw [exec_eq i s entry, h, Option.elim_none]

/-- A next state after an instruction is the completed one or the entry of its fault. -/
theorem exec_next_cases {i : Instr} {s t : State} (h : exec i s = .next t) :
    (raises s i = none ∧ t = completed s i) ∨ (∃ e, raises s i = some e ∧ t = s.takeFault e) := by
  have entry : i = .ret → s.sp.toNat ≤ 15 := by
    rintro rfl
    by_contra above
    rw [execRet_of_sp_gt (Nat.lt_of_not_le above)] at h
    cases h
  rw [exec_eq i s entry] at h
  cases hr : raises s i with
  | none => rw [hr] at h; exact .inl ⟨rfl, (Host.Outcome.next.inj h).symm⟩
  | some e => rw [hr] at h; exact .inr ⟨e, rfl, (Host.Outcome.next.inj h).symm⟩

/-- Settles O16, from the equation of an instruction and the stop of `00EE`. -/
theorem onlyAReturnWithoutAStackEntryStops : Obligations.OnlyAReturnWithoutAStackEntryStops := by
  intro i s
  constructor
  · rintro ⟨rfl, above⟩
    exact execRet_of_sp_gt above
  · intro other
    exact ⟨_, exec_eq i s fun ret => Nat.le_of_not_lt fun above => other ⟨ret, above⟩⟩

end Sys2Proof.Machine
end

section
/-! PROOFS. The frame of every instruction (R43): one rule per write says that it stays inside what the "w" entries
name; the frame of an instruction is put together from the rules of its writes. -/

namespace Sys2Proof.Machine

/-! ### The rules of the writes -/

namespace Frame

variable {w : Touch} {s t : State}

theorem refl (w : Touch) (s : State) : Frame w s s := by
  constructor <;> intros <;> rfl

theorem setPc (h : Frame w s t) (p : Word) : Frame w s (t.setPc p) := { h with }

theorem setI (h : Frame w s t) (p : Word) (named : w.i = true) : Frame w s (t.setI p) :=
  { h with i := fun free => absurd named (by simp [free]) }

theorem setDt (h : Frame w s t) (b : Byte) (named : w.dt = true) : Frame w s (t.setDt b) :=
  { h with dt := fun free => absurd named (by simp [free]) }

theorem setSt (h : Frame w s t) (b : Byte) (named : w.st = true) : Frame w s (t.setSt b) :=
  { h with st := fun free => absurd named (by simp [free]) }

theorem setAwait (h : Frame w s t) (a : Await) (named : w.await = true) : Frame w s (t.setAwait a) :=
  { h with await := fun free => absurd named (by simp [free]) }

theorem countSample (h : Frame w s t) (named : w.rnd = true) : Frame w s t.countSample :=
  { h with rnd := fun free => absurd named (by simp [free]) }

theorem setDisp (h : Frame w s t) (d : Display) (b : Bool) (disp : w.disp = true) (dirty : w.dirty = true) :
    Frame w s (t.setDisp d b) :=
  { h with
    disp := fun free => absurd disp (by simp [free])
    dirty := fun free => absurd dirty (by simp [free]) }

theorem setV (h : Frame w s t) {x : Reg} (b : Byte) (named : x ∈ w.v) : Frame w s (t.setV x b) :=
  { h with
    v := fun k other => by
      have apart : k ≠ x := by
        rintro rfl
        exact other named
      rw [State.readV_setV_ne t b apart, h.v k other] }

end Frame

/-- A loaded block of bytes leaves every register above it alone (R155). -/
theorem readV_loadV_of_notMem {s : State} {x k : Reg} {bytes : List Byte} (len : bytes.length = x.toNat + 1)
    (above : k ∉ regsFromZero x) : ({ s with v := loadV 0 bytes s.v } : State).readV k = s.readV k := by
  have hx := x.isLt
  have beyond : bytes.length ≤ k.toNat := by
    by_contra inside
    exact above (List.mem_map.mpr ⟨k.toNat, List.mem_range.mpr (by omega), by simp⟩)
  rw [← State.setVFrom_eq_loadV, State.readV_setVFrom bytes 0 s k (by omega)]
  simp [beyond]

/-- A stored block of bytes leaves every address outside it alone (R154). -/
theorem read_writeBytes_of_notMem {m : Memory} {addr a : Nat} {bytes : List Byte}
    (outside : a ∉ addressRange addr bytes.length) :
    Memory.read (Memory.writeBytes m addr bytes) a = Memory.read m a := by
  rw [Memory.read_writeBytes]
  split
  · next low =>
    have beyond : bytes.length ≤ a - addr := by
      by_contra inside
      exact outside (List.mem_map.mpr ⟨a - addr, List.mem_range.mpr (by omega), by omega⟩)
    simp [beyond]
  · rfl

/-! ### The frame of an instruction -/

/-- An instruction's writes beside `pc` are the "w" entries of its row of R43. -/
theorem effect_frame (s : State) (i : Instr) : Frame (touches s i) s (effect s i) := by
  have unchanged (w : Touch) : Frame w s s := .refl w s
  cases i with
  | cls => exact (unchanged _).setDisp _ _ rfl rfl
  | ret => exact { unchanged _ with sp := fun free => nomatch free }
  | call nnn =>
    exact { unchanged _ with
      sp := fun free => nomatch free
      stack := fun k hk other =>
        Vector.getElem_setIfInBounds_ne hk fun same => other (List.mem_singleton.mpr same.symm) }
  | ldImm | addImm | ldReg | orReg | andReg | xorReg | ldVxDt =>
    exact (unchanged _).setV _ (List.mem_singleton.mpr rfl)
  | addReg x | subReg x | shr x | subnReg x | shl x =>
    exact ((unchanged _).setV _ (show VF ∈ [x, VF] by simp)).setV _ (show x ∈ [x, VF] by simp)
  | rnd x kk => exact ((unchanged _).setV _ (List.mem_singleton.mpr rfl)).countSample rfl
  | drw x y n =>
    exact ((((unchanged _).setDisp _ _ rfl rfl).setV _ (List.mem_singleton.mpr rfl)).setPc _).setPc _
  | ldI | addI | ldF => exact (unchanged _).setI _ rfl
  | ldVxK x => exact (unchanged _).setAwait _ rfl
  | ldDtVx x => exact (unchanged _).setDt _ rfl
  | ldStVx x => exact (unchanged _).setSt _ rfl
  | ldB x => exact { unchanged _ with mem := fun a outside => read_writeBytes_of_notMem outside }
  | stRegs x =>
    exact { unchanged _ with
      mem := fun a outside => read_writeBytes_of_notMem (by rwa [State.length_regsUpTo]) }
  | ldRegs x =>
    exact { unchanged _ with
      v := fun k above => readV_loadV_of_notMem (Memory.length_readBytes _ _ _) above }
  | jp | jpV0 | seImm | sneImm | seReg | sneReg | skp | sknp => exact unchanged _

theorem completed_frame (s : State) (i : Instr) : Frame (touches s i) s (completed s i) :=
  (effect_frame s i).setPc (pcAfter s i)

/-- Settles O14: the state an instruction without a fault answers is `completed`. -/
theorem everyInstructionCompletesAndKeepsItsFrame : Obligations.EveryInstructionCompletesAndKeepsItsFrame :=
  fun i s quiet entry => ⟨completed s i, exec_of_raises_none quiet entry, rfl, completed_frame s i⟩

end Sys2Proof.Machine
end

section
/-! PROOFS. The flag writers (R22): the byte each of them puts into `V[F]` is 0 or 1, and stays there unless register F
is the result register (decision D3). -/

namespace Sys2Proof.Machine

/-! ### The flags -/

theorem flagByte_zero_or_one (b : Bool) : flagByte b = 0 ∨ flagByte b = 1 := by
  cases b
  · exact .inl rfl
  · exact .inr rfl

/-- The lowest bit of a byte, as a byte. -/
theorem and_one_zero_or_one (a : Byte) : a &&& 1 = 0 ∨ a &&& 1 = 1 := by
  have bit : (a &&& 1).toNat = a.toNat % 2 := by
    rw [BitVec.toNat_and]
    exact Nat.and_one_is_mod a.toNat
  rcases Nat.mod_two_eq_zero_or_one a.toNat with even | odd
  · exact .inl (BitVec.eq_of_toNat_eq (bit.trans even))
  · exact .inr (BitVec.eq_of_toNat_eq (bit.trans odd))

/-! ### What the writers leave in `V[F]` -/

/-- With another result register, the flag stays. -/
theorem State.flagThenResult_readV_VF (s : State) {x : Reg} (flag result : Byte) (h : x ≠ VF) :
    (s.flagThenResult x flag result).readV VF = flag := by
  rw [State.flagThenResult, State.advance_readV, State.readV_setV_ne _ _ h.symm, State.readV_setV_self]

theorem State.drawn_readV_VF (s : State) (x y : Reg) (bytes : List Byte) :
    (s.drawn x y bytes).readV VF
      = collisionFlag (drawSprite (s.readV x).toNat (s.readV y).toNat bytes s.disp).collision := by
  rw [State.drawn, State.advance_readV, State.readV_setV_self]

/-- Settles O17, one flag writer at a time. -/
theorem flagWritersLeaveZeroOrOne : Obligations.FlagWritersLeaveZeroOrOne := by
  rintro x y n s t (⟨hx, h | h | h | h | h⟩ | ⟨h, quiet⟩)
  case inl.inl | inl.inr.inl | inl.inr.inr.inr.inl =>
    cases h
    rw [State.flagThenResult_readV_VF s _ _ hx]
    exact flagByte_zero_or_one _
  case inl.inr.inr.inl | inl.inr.inr.inr.inr =>
    cases h
    rw [State.flagThenResult_readV_VF s _ _ hx]
    exact and_one_zero_or_one _
  case inr =>
    rw [exec_of_raises_none quiet nofun] at h
    cases h
    rw [completed, effect, State.setPc_readV, State.setPc_readV, State.drawn_readV_VF]
    exact flagByte_zero_or_one _

end Sys2Proof.Machine
end

section
/-! PROOFS. What instructions do not read (R29, R32, R34, R38, R43): a change of state that `raises` and `effect` do not
see, up to the piece that changed, is one that `exec` does not see. -/

namespace Sys2Proof.Machine

/-- With `look` a view of a state, and `s'` a state that raises the same faults as `s` and whose next states look the
same, an instruction looks the same from `s'` as from `s`. -/
theorem mapNext_exec_congr {i : Instr} {s s' : State} {look look' : State → State} (sp : s'.sp = s.sp)
    (raised : raises s' i = raises s i) (halted : ∀ e, look' (s'.takeFault e) = look (s.takeFault e))
    (done : look' (completed s' i) = look (completed s i)) :
    mapNext look' (exec i s') = mapNext look (exec i s) := by
  by_cases stop : i = .ret ∧ s.sp.toNat > 15
  · obtain ⟨rfl, above⟩ := stop
    rw [execRet_of_sp_gt above, execRet_of_sp_gt (by rwa [sp])]
    rfl
  · have entry : i = .ret → s.sp.toNat ≤ 15 := fun ret => Nat.le_of_not_lt fun above => stop ⟨ret, above⟩
    rw [exec_eq i s entry, exec_eq i s' (by rwa [sp]), raised]
    cases raises s i with
    | none => exact congrArg Host.Outcome.next done
    | some e => exact congrArg Host.Outcome.next (halted e)

theorem mapNext_id (o : Outcome) : mapNext id o = o := by
  cases o <;> rfl

/-- The execution faults depend on `V`, `I` and `SP` alone (R180). -/
theorem raises_congr (i : Instr) {s s' : State} (v : s'.v = s.v) (index : s'.i = s.i) (sp : s'.sp = s.sp) :
    raises s' i = raises s i := by
  obtain ⟨⟩ := s
  obtain ⟨⟩ := s'
  cases v
  cases index
  cases sp
  cases i <;> rfl

section

variable (i : Instr) (s : State)

theorem completed_st (b : Byte) :
    { completed { s with st := b } i with st := 0 } = { completed s i with st := 0 } := by
  cases i <;> rfl

theorem completed_dirty (b : Bool) :
    { completed { s with dirty := b } i with dirty := false } = { completed s i with dirty := false } := by
  cases i <;> rfl

theorem completed_dfc (n : Nat) :
    { completed { s with dfc := n } i with dfc := 0 } = { completed s i with dfc := 0 } := by
  cases i <;> rfl

/-- Only the key skips look at `KEYS`, for where they leave `pc`. -/
theorem completed_keys (k : Vector Bool 16) (skp : ∀ x, i ≠ .skp x) (sknp : ∀ x, i ≠ .sknp x) :
    { completed { s with keys := k } i with keys := s.keys } = completed s i := by
  cases i with
  | skp x => exact absurd rfl (skp x)
  | sknp x => exact absurd rfl (sknp x)
  | _ => rfl

end

/-- Settles O18, from what the completed state and the faults depend on. -/
theorem instructionsDoNotReadSoundTimerDirtyCounterOrKeys :
    Obligations.InstructionsDoNotReadSoundTimerDirtyCounterOrKeys := by
  intro i s
  refine ⟨fun b => ?st, fun b => ?dirty, fun n => ?dfc, fun k skp sknp => ?keys⟩
  case st => exact mapNext_exec_congr rfl (raises_congr i rfl rfl rfl) (fun _ => rfl) (completed_st i s b)
  case dirty => exact mapNext_exec_congr rfl (raises_congr i rfl rfl rfl) (fun _ => rfl) (completed_dirty i s b)
  case dfc => exact mapNext_exec_congr rfl (raises_congr i rfl rfl rfl) (fun _ => rfl) (completed_dfc i s n)
  case keys =>
    rw [← mapNext_id (exec i s)]
    exact mapNext_exec_congr rfl (raises_congr i rfl rfl rfl) (fun _ => rfl) (completed_keys i s k skp sknp)

end Sys2Proof.Machine
end

section
/-! PROOFS. A recognised word is the encoding of its instruction (R91, R97): the branch of the decoder that answers fixes
the family and the sub-opcode, and a word is its fields. -/

namespace Sys2Proof

theorem encode_of_decodeFamily0 {w : Word} {i : Instr} (h : decodeFamily0 w = .ok i) : encode i = w := by
  unfold decodeFamily0 at h
  split at h
  · next hw => cases h; exact hw.symm
  · split at h
    · next hw => cases h; exact hw.symm
    · cases h

theorem encode_of_decodeFamily8 {w : Word} {i : Instr} (op : fieldOp w = 0x8#4) (h : decodeFamily8 w = .ok i) :
    encode i = w := by
  have fields := eq_field4 w
  unfold decodeFamily8 at h
  split at h <;> cases h
  all_goals next n => rw [op, n] at fields; exact fields.symm

theorem encode_of_decodeFamilyE {w : Word} {i : Instr} (op : fieldOp w = 0xE#4) (h : decodeFamilyE w = .ok i) :
    encode i = w := by
  have fields := eq_fieldXKK w
  unfold decodeFamilyE at h
  split at h <;> cases h
  all_goals next kk => rw [op, kk] at fields; exact fields.symm

theorem encode_of_decodeFamilyF {w : Word} {i : Instr} (op : fieldOp w = 0xF#4) (h : decodeFamilyF w = .ok i) :
    encode i = w := by
  have fields := eq_fieldXKK w
  unfold decodeFamilyF at h
  split at h <;> cases h
  all_goals next kk => rw [op, kk] at fields; exact fields.symm

/-- The word an instruction was decoded from is its encoding. -/
theorem encode_of_decodeWord {w : Word} {i : Instr} (h : decodeWord w = .ok i) : encode i = w := by
  unfold decodeWord at h
  split at h
  case h_1 => exact encode_of_decodeFamily0 h
  case h_9 op => exact encode_of_decodeFamily8 op h
  case h_15 op => exact encode_of_decodeFamilyE op h
  case h_16 =>
    have op : fieldOp w = 0xF#4 := by
      simp only [imp_false] at *
      bv_omega
    exact encode_of_decodeFamilyF op h
  case h_2 op | h_3 op | h_11 op | h_12 op =>
    have fields := eq_fieldNNN w
    cases h
    rw [op] at fields
    exact fields.symm
  case h_4 op | h_5 op | h_7 op | h_8 op | h_13 op =>
    have fields := eq_fieldXKK w
    cases h
    rw [op] at fields
    exact fields.symm
  case h_6 op | h_10 op =>
    have fields := eq_field4 w
    split at h
    · next n =>
      cases h
      rw [op, n] at fields
      exact fields.symm
    · cases h
  case h_14 op =>
    have fields := eq_field4 w
    cases h
    rw [op] at fields
    exact fields.symm

end Sys2Proof
end

section
/-! PROOFS. The reset state (R40, R210): the values of the table, and that they meet the invariants of R42. -/

namespace Sys2Proof.Machine

/-- A `RESET` leaves every piece of state of the block at the value of R40, from every state. -/
theorem doReset_atReset (s : State) : AtReset s.doReset where
  v x := by simp [State.doReset, State.reset, State.readV]
  i := rfl
  pc := rfl
  sp := rfl
  stack k h := by simp [State.doReset, State.reset]
  dt := rfl
  st := rfl
  font a h := if_pos h
  zeros a h := if_neg (Nat.not_lt_of_le h)
  disp r c := pixel_blankDisplay r c
  dirty := rfl
  keys k := by simp [State.doReset, State.reset, State.readKey]
  await := rfl
  fault := rfl
  dfc := rfl

/-- Settles O30: the reset state is what a `RESET` makes of it. -/
theorem resetStateHoldsTheValuesOfTheTable : Obligations.ResetStateHoldsTheValuesOfTheTable :=
  doReset_atReset State.reset

/-- Settles O29: the step serves the `RESET`. -/
theorem resetRestoresEveryPieceOfState : Obligations.ResetRestoresEveryPieceOfState :=
  fun _ strobe => ⟨_, step_of_nextStrobe strobe, doReset_atReset _, rfl, rfl, rfl⟩

end Sys2Proof.Machine
end

section
/-! PROOFS. The invariants of R42 (10_state.md): one rule per write says which bound it owes; an instruction, a cycle and
a strobe keep the invariants because their writes do. -/

namespace Sys2Proof.Machine

/-! ### The rules of the writes -/

namespace Inv

variable {s : State}

/-- The invariants speak of no register, timer, pixel, key, sample count or coming strobe. -/
theorem of_unseen (h : Inv s) (v : Vector Byte 16) (dt st : Byte) (disp : Display) (dirty : Bool)
    (keys : Vector Bool 16) (rndCount : Nat) (schedule : List Strobe) :
    Inv { s with
      v := v, dt := dt, st := st, disp := disp, dirty := dirty, keys := keys, rndCount := rndCount,
      schedule := schedule } :=
  { h with }

theorem closeLoad (h : Inv s) : Inv s.closeLoad :=
  { h with
    await := fun x waits =>
      let ⟨pc, word, _⟩ := h.await x waits
      ⟨pc, word, rfl⟩ }

theorem setI (h : Inv s) {w : Word} (le : w.toNat ≤ 0xFFF) : Inv (s.setI w) := { h with index := le }

/-- While the machine does not wait, `pc` may go anywhere an instruction sends it (R42 (c)). -/
theorem setPc (h : Inv s) (idle : s.await = .none) {w : Word} (le : w.toNat ≤ 0x10FE) : Inv (s.setPc w) :=
  { h with
    pc := le
    await := fun x waits => by rw [State.setPc_await, idle] at waits; cases waits }

theorem setMem (h : Inv s) (idle : s.await = .none) {m : Memory} (wf : Memory.wf m = true) : Inv (s.setMem m) :=
  { h with
    mem := wf
    await := fun x waits => by rw [State.setMem_await, idle] at waits; cases waits }

/-- A fault is latched only while the machine does not wait (D24). -/
theorem takeFault (h : Inv s) (idle : s.await = .none) (e : Trap) : Inv (s.takeFault e) :=
  { h with notBoth := fun _ => idle }

/-- A wait begins at a fetched `Fx0A`, with the `LOAD` window closed (R42 (f)). -/
theorem startWait (h : Inv s) {x : Reg} (sound : s.fault = none) (pc : s.pc.toNat ≤ 0xFFE)
    (word : s.wordAtPc = 0xF#4 ++ x ++ 0x0A#8) (closed : s.loadOpen = false) : Inv (s.setAwait (.waiting x)) :=
  { h with
    await := fun y waits => by
      cases waits
      exact ⟨pc, word, closed⟩
    notBoth := fun halted => by rw [State.setAwait_fault, sound] at halted; cases halted }

theorem stopWait (h : Inv s) : Inv (s.setAwait .none) :=
  { h with
    await := fun _ waits => by cases waits
    notBoth := fun _ => rfl }

/-- A call writes an entry from 1 to 15 (R42 (b), (d)). -/
theorem call (h : Inv s) (room : s.sp.toNat < 15) {ret : Word} (le : ret.toNat ≤ 0x1000) :
    Inv { s with sp := s.sp + 1, stack := s.stack.setIfInBounds (s.sp.toNat + 1) ret } :=
  { h with
    sp := by
      show (s.sp + 1).toNat ≤ 15
      bv_omega
    stack := fun k hk => by
      show ((s.stack.setIfInBounds (s.sp.toNat + 1) ret)[k]).toNat ≤ 0x1000
      rw [Vector.getElem_setIfInBounds]
      split
      · exact le
      · exact h.stack k hk
    stackZero := (Vector.getElem_setIfInBounds_ne (by decide) (by omega)).trans h.stackZero }

/-- A return from an entry takes 1 from `SP` (R42 (b)). -/
theorem dropTop (h : Inv s) (nonzero : s.sp.toNat ≠ 0) : Inv s.dropTop :=
  { h with
    sp := by
      have sp := h.sp
      show (s.sp - 1).toNat ≤ 15
      bv_omega }

/-- A decode fault counts within the width of the counter (R181). -/
theorem decodeFault (h : Inv s) (idle : s.await = .none) (pc : s.pc.toNat ≤ 0xFFE) : Inv s.decodeFault :=
  { h with
    pc := by
      show (s.pc + 2).toNat ≤ 0x10FE
      bv_omega
    await := fun x waits => by rw [State.decodeFault_await, idle] at waits; cases waits
    dfc := fun width finite => by
      rw [State.decodeFault_dfc, finite]
      exact dfcIncrement_lt (h.dfc width finite) }

end Inv

/-! ### An instruction keeps the invariants -/

/-- A block of bytes that raises no fault lies inside the address space (R62). -/
theorem addr_le_of_dataFault_none {s : State} {n : Nat} (h : dataFault s n = none) (pos : 0 < n) :
    s.dataBase + n ≤ Config.memSize := by
  by_contra above
  simp only [Config.memSize] at above
  rw [dataFault, if_pos ⟨pos.ne', by omega⟩] at h
  cases h

theorem indexSum_le (i : Word) (a : Byte) : (indexSum i a).toNat ≤ 0xFFF := by
  rw [indexSum, BitVec.toNat_ofNat]
  omega

theorem glyphAddress_le (a : Byte) : (glyphAddress a).toNat ≤ 0xFFF := by
  have ha := a.isLt
  rw [glyphAddress, BitVec.toNat_ofNat]
  exact (Nat.mod_le _ _).trans (by omega)

theorem absolute_le (nnn : Address) : (absolute nnn).toNat ≤ 0xFFF := by
  have hn := nnn.isLt
  rw [absolute, BitVec.toNat_setWidth]
  omega

/-- A skip goes on by at most 4 (R25 (b)). -/
theorem skipTarget_le {s : State} (fetched : s.pc.toNat ≤ 0xFFE) (c : Bool) : (skipTarget s c).toNat ≤ 0x10FE := by
  cases c
  · show (s.pc + 2).toNat ≤ 0x10FE
    bv_omega
  · show (s.pc + 4).toNat ≤ 0x10FE
    bv_omega

/-- A fetched instruction leaves `pc` in the range of R42 (c), the greatest value by `Bnnn`. -/
theorem pcAfter_le {s : State} (h : Inv s) (fetched : s.pc.toNat ≤ 0xFFE) (i : Instr) :
    (pcAfter s i).toNat ≤ 0x10FE := by
  cases i with
  | jp nnn | call nnn => exact (absolute_le nnn).trans (by decide)
  | jpV0 nnn =>
    have hn := nnn.isLt
    have hv := (s.readV 0).isLt
    rw [pcAfter, BitVec.toNat_ofNat]
    omega
  | ret =>
    have sp : s.sp.toNat < 16 := Nat.lt_succ_of_le h.sp
    rw [pcAfter, Vector.getElem?_eq_getElem sp]
    exact (h.stack _ sp).trans (by decide)
  | seImm | sneImm | seReg | sneReg | skp | sknp => exact skipTarget_le fetched _
  | ldVxK => exact fetched.trans (by decide)
  | _ => exact skipTarget_le fetched false

/-- The writes beside `pc` of an instruction other than `Fx0A` keep the invariants. -/
theorem Inv.effect {s : State} (h : Inv s) (idle : s.await = .none) (fetched : s.pc.toNat ≤ 0xFFE) {i : Instr}
    (quiet : raises s i = none) (other : ∀ x, i ≠ .ldVxK x) : Inv (Machine.effect s i) := by
  cases i with
  | ldVxK x => exact absurd rfl (other x)
  | ret =>
    have nonzero : s.sp.toNat ≠ 0 := fun zero => by
      rw [raises, if_pos zero] at quiet
      cases quiet
    exact h.dropTop nonzero
  | call nnn =>
    have room : s.sp.toNat < 15 := by
      by_contra full
      rw [raises, if_pos (Nat.le_of_not_lt full)] at quiet
      cases quiet
    exact h.call room (show (s.pc + 2).toNat ≤ 0x1000 by bv_omega)
  | ldI nnn => exact h.setI (absolute_le nnn)
  | addI x => exact h.setI (indexSum_le _ _)
  | ldF x => exact h.setI (glyphAddress_le _)
  | ldB x =>
    exact h.setMem idle (Memory.wf_writeBytes _ _ _ (addr_le_of_dataFault_none (n := 3) quiet (by decide)) h.mem)
  | stRegs x =>
    have inside := addr_le_of_dataFault_none quiet (Nat.succ_pos _)
    exact h.setMem idle (Memory.wf_writeBytes _ _ _ (by rwa [State.length_regsUpTo]) h.mem)
  | jp | jpV0 | seImm | sneImm | seReg | sneReg | skp | sknp => exact h
  | _ => exact h.of_unseen _ _ _ _ _ _ _ _

/-- Only `Fx0A` writes `AWAIT` (R43). -/
theorem touches_await_of_ne {s : State} {i : Instr} (other : ∀ x, i ≠ .ldVxK x) : (touches s i).await = false := by
  cases i with
  | ldVxK x => exact absurd rfl (other x)
  | _ => rfl

/-- A fetched instruction that completes keeps the invariants. -/
theorem Inv.completed {s : State} (h : Inv s) (sound : s.fault = none) (idle : s.await = .none)
    (closed : s.loadOpen = false) (fetched : s.pc.toNat ≤ 0xFFE) {i : Instr} (decoded : decodeWord s.wordAtPc = .ok i)
    (quiet : raises s i = none) : Inv (Machine.completed s i) := by
  by_cases waits : ∃ x, i = .ldVxK x
  · obtain ⟨x, rfl⟩ := waits
    exact h.startWait sound fetched (encode_of_decodeWord decoded).symm closed
  · have other : ∀ x, i ≠ .ldVxK x := fun x same => waits ⟨x, same⟩
    have idle' : (Machine.effect s i).await = .none := by
      rw [(effect_frame s i).await (touches_await_of_ne other), idle]
    exact (h.effect idle fetched quiet other).setPc idle' (pcAfter_le h fetched i)

/-- A fetched instruction keeps the invariants, whether it completes or latches its fault. -/
theorem Inv.exec {s t : State} (h : Inv s) (sound : s.fault = none) (idle : s.await = .none)
    (closed : s.loadOpen = false) (fetched : s.pc.toNat ≤ 0xFFE) {i : Instr} (decoded : decodeWord s.wordAtPc = .ok i)
    (next : Machine.exec i s = .next t) : Inv t := by
  rcases exec_next_cases next with ⟨quiet, rfl⟩ | ⟨e, -, rfl⟩
  · exact h.completed sound idle closed fetched decoded quiet
  · exact h.takeFault idle e

/-! ### A strobe keeps the invariants -/

/-- An `EXEC` cycle keeps the invariants, in each of its cases (R90, R190). -/
theorem Inv.execCycle {s t : State} (h : Inv s) (next : s.execCycle = .next t) : Inv t := by
  rcases s.execCycle_cases with ⟨-, cycle⟩ | ⟨-, -, cycle⟩ | ⟨-, idle, -, cycle⟩ | ⟨-, idle, fetched, -, cycle⟩ |
      ⟨sound, idle, fetched, i, decoded, cycle⟩
  all_goals rw [cycle] at next
  case inl | inr.inl =>
    cases next
    exact h
  case inr.inr.inl =>
    cases next
    exact h.closeLoad.takeFault idle _
  case inr.inr.inr.inl =>
    cases next
    exact h.closeLoad.decodeFault idle fetched
  case inr.inr.inr.inr => exact h.closeLoad.exec sound idle rfl fetched decoded next

/-- A key event ends a wait at the `Fx0A` it began at, or sets a level only (R195). -/
theorem Inv.keyEvent {s : State} (h : Inv s) (k : Nibble) (pressed : Bool) : Inv (s.keyEvent k pressed) := by
  rcases s.keyEvent_cases k pressed with ⟨x, waits, -, -, ends⟩ | ⟨-, ends⟩
  · obtain ⟨pc, -, -⟩ := h.await x waits
    have written : Inv ((s.setKey k pressed).setV x (k.setWidth 8)) := h.of_unseen _ _ _ _ _ _ _ _
    rw [ends]
    exact written.stopWait.setPc rfl (show (s.pc + 2).toNat ≤ 0x10FE by bv_omega)
  · rw [ends]
    exact h.of_unseen _ _ _ _ _ _ _ _

/-- A `LOAD` that is served finds the machine not waiting, and its image fits the program region (R74). -/
theorem Inv.loadImage {s t : State} (h : Inv s) {bytes : List Byte} (next : s.loadImage bytes = .next t) : Inv t := by
  rcases s.loadImage_cases bytes with ⟨-, load⟩ | ⟨-, -, load⟩ | ⟨opened, fits, load⟩
  all_goals rw [load] at next; cases next
  have idle : s.await = .none := by
    cases waits : s.await with
    | none => rfl
    | waiting x =>
      obtain ⟨-, -, closed⟩ := h.await x waits
      rw [closed] at opened
      cases opened
  have len : bytes.length ≤ Config.progMaxLen := of_decide_eq_true fits
  exact (h.setMem idle (Memory.wf_writeBytes _ _ _ (Nat.add_le_add_left len Config.progBase) h.mem)).closeLoad

/-- The reset state meets the invariants. -/
theorem reset_inv : Inv State.reset where
  index := by decide
  sp := by decide
  pc := by decide
  stack k h := by
    rw [resetStateHoldsTheValuesOfTheTable.stack k h]
    decide
  stackZero := resetStateHoldsTheValuesOfTheTable.stack 0 (by decide)
  mem := State.reset_mem_wf
  await _ waits := nomatch waits
  notBoth _ := rfl
  dfc width _ := Nat.two_pow_pos width

/-- Every strobe the host can issue keeps the invariants (R11). -/
theorem Inv.strobe {s t : State} (h : Inv s) {e : Strobe} (next : s.strobe e = .next t) : Inv t := by
  cases e with
  | exec => exact h.execCycle next
  | load bytes => exact h.loadImage next
  | tick =>
    cases next
    exact h.of_unseen _ _ _ _ _ _ _ _
  | key k pressed =>
    cases next
    exact h.keyEvent k pressed
  | flush =>
    cases next
    exact h.of_unseen _ _ _ _ _ _ _ _
  | reset =>
    cases next
    exact reset_inv.of_unseen _ _ _ _ _ _ _ _

/-- Settles O19: a step serves one strobe, with the schedule moved on. -/
theorem everyStepKeepsTheInvariants : Obligations.EveryStepKeepsTheInvariants :=
  fun s _ h next => (h.of_unseen s.v s.dt s.st s.disp s.dirty s.keys s.rndCount s.schedule.tail).strobe next

/-- Settles O20: the schedule is no part of the invariants. -/
theorem resetStateMeetsTheInvariants : Obligations.ResetStateMeetsTheInvariants :=
  fun l => reset_inv.of_unseen _ _ _ _ _ _ _ l

/-- Settles O21, by induction on the run. -/
theorem everyReachableStateMeetsTheInvariants : Obligations.EveryReachableStateMeetsTheInvariants := by
  intro s run
  induction run with
  | reset l => exact resetStateMeetsTheInvariants l
  | step _ next ih => exact everyStepKeepsTheInvariants _ _ ih next

end Sys2Proof.Machine
end

section
/-! PROOFS. What only a `RESET` takes back (R37, R38, R42 (g), R191): a latched fault and the count of decode faults. -/

namespace Sys2Proof.Machine

/-- From `s` to `t` a latched fault stays as it is, and the decode-fault count stays or goes up by one. -/
structure KeepsFaults (s t : State) : Prop where
  /-- R191. -/
  fault : ∀ f, s.fault = some f → t.fault = some f
  /-- R38, not down. -/
  le : s.dfc ≤ t.dfc
  /-- R38, up by at most one. -/
  le_succ : t.dfc ≤ s.dfc + 1

/-- A change that touches neither keeps both. -/
theorem keepsFaults_of_eq {s t : State} (fault : t.fault = s.fault) (dfc : t.dfc = s.dfc) : KeepsFaults s t where
  fault _ latched := fault.trans latched
  le := dfc.ge
  le_succ := dfc.le.trans (Nat.le_succ _)

/-- A step that latches or counts a fault starts from a machine with none. -/
theorem keepsFaults_of_sound {s t : State} (sound : s.fault = none) (le : s.dfc ≤ t.dfc) (le_succ : t.dfc ≤ s.dfc + 1) :
    KeepsFaults s t where
  fault _ latched := by rw [sound] at latched; cases latched
  le := le
  le_succ := le_succ

theorem dfcIncrement_bounds (width : Option Nat) (n : Nat) :
    n ≤ dfcIncrement width n ∧ dfcIncrement width n ≤ n + 1 := by
  rcases dfcIncrement_cases width n with up | ⟨w, -, -, stays⟩ <;> omega

/-- No instruction writes the decode-fault counter (R38, R43). -/
theorem exec_dfc {i : Instr} {s t : State} (next : exec i s = .next t) : t.dfc = s.dfc := by
  rcases exec_next_cases next with ⟨-, rfl⟩ | ⟨e, -, rfl⟩
  · exact (completed_frame s i).dfc
  · rfl

theorem execCycle_keepsFaults {s t : State} (next : s.execCycle = .next t) : KeepsFaults s t := by
  rcases s.execCycle_cases with ⟨-, cycle⟩ | ⟨-, -, cycle⟩ | ⟨sound, -, -, cycle⟩ | ⟨sound, -, -, -, cycle⟩ |
      ⟨sound, -, -, i, -, cycle⟩
  all_goals rw [cycle] at next
  case inl | inr.inl =>
    cases next
    exact keepsFaults_of_eq rfl rfl
  case inr.inr.inl =>
    cases next
    exact keepsFaults_of_sound sound le_rfl (Nat.le_succ _)
  case inr.inr.inr.inl =>
    cases next
    obtain ⟨le, le_succ⟩ := dfcIncrement_bounds Config.dfcWidth s.dfc
    exact keepsFaults_of_sound sound le le_succ
  case inr.inr.inr.inr =>
    have same : t.dfc = s.dfc := exec_dfc (s := s.closeLoad) next
    exact keepsFaults_of_sound sound same.ge (same.le.trans (Nat.le_succ _))

theorem keyEvent_keepsFaults (s : State) (k : Nibble) (pressed : Bool) : KeepsFaults s (s.keyEvent k pressed) := by
  rcases s.keyEvent_cases k pressed with ⟨x, -, -, -, ends⟩ | ⟨-, ends⟩
  all_goals
    rw [ends]
    exact keepsFaults_of_eq rfl rfl

theorem loadImage_keepsFaults {s t : State} {bytes : List Byte} (next : s.loadImage bytes = .next t) :
    KeepsFaults s t := by
  rcases s.loadImage_cases bytes with ⟨-, load⟩ | ⟨-, -, load⟩ | ⟨-, -, load⟩
  all_goals rw [load] at next; cases next
  exact keepsFaults_of_eq rfl rfl

/-- Every strobe but `RESET` keeps a latched fault and the count. -/
theorem strobe_keepsFaults {s t : State} {e : Strobe} (next : s.strobe e = .next t) (other : e ≠ .reset) :
    KeepsFaults s t := by
  cases e with
  | exec => exact execCycle_keepsFaults next
  | load bytes => exact loadImage_keepsFaults next
  | key k pressed =>
    cases next
    exact keyEvent_keepsFaults s k pressed
  | tick | flush =>
    cases next
    exact keepsFaults_of_eq rfl rfl
  | reset => exact absurd rfl other

/-- Settles O22: a step serves one strobe. -/
theorem faultRecordStaysAndCountGrowsUntilReset : Obligations.FaultRecordStaysAndCountGrowsUntilReset := by
  intro s t next other
  obtain ⟨fault, le, le_succ⟩ := strobe_keepsFaults next other
  exact ⟨fault, le, le_succ⟩

end Sys2Proof.Machine
end

section
/-! PROOFS. The two halves of `Fx0A` (R36, R175, R195; decision D7): the wait, and the key that ends it. -/

namespace Sys2Proof.Machine

/-- A machine that waits, with no fault, is left alone by a step strobe (R190). -/
theorem State.execCycle_of_waiting {s : State} {x : Reg} (sound : s.fault = none) (waits : s.await = .waiting x) :
    s.execCycle = .next s := by
  simp [State.execCycle, sound, waits]

/-- A key-down transition during a wait completes the `Fx0A` (R195). -/
theorem State.keyEvent_of_waiting {s : State} {x : Reg} {k : Nibble} (waits : s.await = .waiting x)
    (up : s.readKey k = false) : s.keyEvent k true = (s.setKey k true).completeAwait x k := by
  simp [State.keyEvent, waits, up]

/-- The completed `Fx0A`: the index of the key in its register (R175). -/
theorem State.completeAwait_readV_self (s : State) (x : Reg) (k : Nibble) :
    ((s.completeAwait x k).readV x).toNat = k.toNat := by
  have hk := k.isLt
  rw [State.completeAwait, State.advance_readV, State.setAwait_readV, State.readV_setV_self, BitVec.toNat_setWidth]
  omega

/-- Settles O58: `Fx0A` starts the wait, and the two rules of a waiting machine say how it goes on. -/
theorem waitForKeyHoldsUntilAKeyGoesDown : Obligations.WaitForKeyHoldsUntilAKeyGoesDown := by
  intro x s
  refine ⟨s.setAwait (.waiting x), rfl, rfl, rfl, effect_frame s (.ldVxK x), fun sound => ?strobe, fun k up => ?key⟩
  case strobe => exact State.execCycle_of_waiting sound rfl
  case key =>
    refine ⟨_, congrArg Host.Outcome.next (State.keyEvent_of_waiting rfl up),
      State.completeAwait_readV_self _ x k, rfl, rfl, ?_⟩
    show ((s.setAwait (.waiting x)).setKey k true).readKey k = true
    rw [State.readKey_setKey, if_pos rfl]

end Sys2Proof.Machine
end

section
/-! PROOFS. What a checked access and a block write do to the bytes of memory (R62): a byte inside the block, a byte
outside it, and the one address that decides the bound. -/

namespace Sys2Proof.Machine

theorem mem_addressRange {a addr n : Nat} : a ∈ addressRange addr n ↔ addr ≤ a ∧ a < addr + n := by
  simp only [addressRange, List.mem_map, List.mem_range]
  constructor
  · rintro ⟨k, inside, rfl⟩
    omega
  · rintro ⟨low, high⟩
    exact ⟨a - addr, by omega, by omega⟩

/-- A block write puts the `k`-th byte of the list at the `k`-th address. -/
theorem Memory.read_writeBytes_add {bytes : List Byte} {k : Nat} {b : Byte} (byte : bytes[k]? = some b) (m : Memory)
    (addr : Nat) : Memory.read (Memory.writeBytes m addr bytes) (addr + k) = b := by
  rw [Memory.read_writeBytes, if_pos (Nat.le_add_right addr k), Nat.add_sub_cancel_left, byte, Option.getD_some]

/-- A range of `n + 1` bytes whose last address exists raises nothing. -/
theorem dataFault_of_le {s : State} {n : Nat} (fits : s.dataBase + n ≤ 0xFFF) : dataFault s (n + 1) = none :=
  if_neg fun ⟨_, above⟩ => Nat.not_lt_of_le fits above

/-- A range of `n + 1` bytes whose last address does not exist raises a fault that records that address (R185). -/
theorem dataFault_of_gt {s : State} {n : Nat} (above : s.dataBase + n > 0xFFF) :
    dataFault s (n + 1) = some ⟨.memoryOutOfBounds, s.dataBase + n⟩ :=
  if_pos ⟨Nat.succ_ne_zero n, above⟩

/-- An instruction that raises a fault latches it and does nothing else (R188, R189). -/
theorem exec_of_raises_some {i : Instr} {s : State} {e : Trap} (h : raises s i = some e)
    (entry : i = .ret → s.sp.toNat ≤ 15) : exec i s = .next (s.takeFault e) := by
  rw [exec_eq i s entry, h, Option.elim_some]

end Sys2Proof.Machine
end

section
/-! PROOFS. The blocks of bytes that `Fx33`, `Fx55` and `Fx65` move (R153 to R156): a block whose last address exists is
moved byte for byte, any other moves nothing and latches its fault. -/

namespace Sys2Proof.Machine

/-! ### `Fx33` -/

theorem read_completed_ldB {s : State} {x : Reg} {k : Nat} {digit : Byte}
    (byte : (decimalDigits (s.readV x))[k]? = some digit) :
    Memory.read (completed s (.ldB x)).mem (s.dataBase + k) = digit :=
  Memory.read_writeBytes_add byte s.mem s.dataBase

/-- Settles O47: each digit is less than 256, so its byte holds it whole. -/
theorem decimalDigitsAreStoredOrNothingIs : Obligations.DecimalDigitsAreStoredOrNothingIs := by
  intro x s
  have byte := (s.readV x).isLt
  refine ⟨fun fits => ⟨completed s (.ldB x), exec_of_raises_none (dataFault_of_le fits) nofun, ?hundreds, ?tens,
    ?ones, rfl, completed_frame s (.ldB x)⟩,
    fun above => exec_of_raises_some (i := .ldB x) (dataFault_of_gt above) nofun⟩
  case hundreds =>
    rw [← Nat.add_zero s.dataBase, read_completed_ldB rfl, BitVec.toNat_ofNat]
    omega
  case tens =>
    rw [read_completed_ldB rfl, BitVec.toNat_ofNat]
    omega
  case ones =>
    rw [read_completed_ldB rfl, BitVec.toNat_ofNat]
    omega

/-! ### `Fx55` -/

theorem State.getElem?_regsUpTo {s : State} {x k : Reg} (le : k.toNat ≤ x.toNat) :
    (s.regsUpTo x)[k.toNat]? = some (s.readV k) := by
  simp [State.regsUpTo, Nat.lt_succ_of_le le]

theorem read_completed_stRegs {s : State} {x k : Reg} (le : k.toNat ≤ x.toNat) :
    Memory.read (completed s (.stRegs x)).mem (s.dataBase + k.toNat) = s.readV k :=
  Memory.read_writeBytes_add (State.getElem?_regsUpTo le) s.mem s.dataBase

/-- Settles O48: the `k`-th byte stored is `V[k]`. -/
theorem registersAreStoredOrNothingIs : Obligations.RegistersAreStoredOrNothingIs :=
  fun x s =>
    ⟨fun fits => ⟨completed s (.stRegs x), exec_of_raises_none (dataFault_of_le fits) nofun,
      fun _ le => read_completed_stRegs le, rfl, completed_frame s (.stRegs x)⟩,
    fun above => exec_of_raises_some (i := .stRegs x) (dataFault_of_gt above) nofun⟩

/-! ### `Fx65` -/

theorem readV_completed_ldRegs {s : State} {x k : Reg} (le : k.toNat ≤ x.toNat) :
    (completed s (.ldRegs x)).readV k = Memory.read s.mem (s.dataBase + k.toNat) := by
  have hx := x.isLt
  show ({ s with v := loadV 0 (Memory.readBytes s.mem s.dataBase (x.toNat + 1)) s.v } : State).readV k = _
  rw [← State.setVFrom_eq_loadV, State.readV_setVFrom _ 0 s k (by rw [Memory.length_readBytes]; omega),
    if_pos (Nat.zero_le _), Nat.sub_zero, Memory.getElem?_readBytes _ _ _ _ (Nat.lt_succ_of_le le), Option.getD_some]

/-- Settles O49: the `k`-th byte read goes to `V[k]`. -/
theorem registersAreLoadedOrNoneIs : Obligations.RegistersAreLoadedOrNoneIs :=
  fun x s =>
    ⟨fun fits => ⟨completed s (.ldRegs x), exec_of_raises_none (dataFault_of_le fits) nofun,
      fun _ le => readV_completed_ldRegs le, rfl, completed_frame s (.ldRegs x)⟩,
    fun above => exec_of_raises_some (i := .ldRegs x) (dataFault_of_gt above) nofun⟩

end Sys2Proof.Machine
end

section
/-! PROOFS. The instruction fetch (R63, R68) and its coherence with a store (R71, R75). -/

namespace Sys2Proof.Machine

/-- Where two bytes stand at `pc` and behind it, a fetch answers the word they make (R63). -/
theorem State.fetch_eq_wordOfBytes {s : State} {a : Nat} (pc : s.pc.toNat = a) (le : a + 1 ≤ 0xFFF) :
    s.fetch = .ok (wordOfBytes (Memory.read s.mem a) (Memory.read s.mem (a + 1))) := by
  subst pc
  exact if_neg (Nat.not_lt_of_le le)

/-- Settles O6, from the fetched word, its value as a big-endian number, and the bound check. -/
theorem fetchIsBigEndianAndBoundedAtTheTop : Obligations.FetchIsBigEndianAndBoundedAtTheTop :=
  fun _ => ⟨fun le => ⟨_, State.fetch_eq_wordOfBytes rfl le, toNat_wordOfBytes _ _⟩, fun above => if_pos above⟩

/-- Settles O51: the store puts `V[0]` and `V[1]` where `pc` goes next. -/
theorem aStoredInstructionIsFetchedNext : Obligations.AStoredInstructionIsFetchedNext := by
  intro x s two behind fits
  have pc : (completed s (.stRegs x)).pc.toNat = s.dataBase := by
    show (s.pc + 2).toNat = s.dataBase
    bv_omega
  have first : Memory.read (completed s (.stRegs x)).mem s.dataBase = s.readV 0 :=
    read_completed_stRegs (k := 0) (Nat.zero_le _)
  have second : Memory.read (completed s (.stRegs x)).mem (s.dataBase + 1) = s.readV 1 :=
    read_completed_stRegs (k := 1) two
  refine ⟨completed s (.stRegs x), exec_of_raises_none (dataFault_of_le fits) nofun, ?_⟩
  rw [State.fetch_eq_wordOfBytes pc (by omega), first, second]

end Sys2Proof.Machine
end

section
/-! PROOFS. The `LOAD` strobe (R74, R187; decision D16; log entries 6 and 7): served or refused by name. -/

namespace Sys2Proof.Machine

/-- The image check is the bound of R74. -/
theorem imageWellFormed_eq_false_iff {bytes : List Byte} : imageWellFormed bytes = false ↔ 3584 < bytes.length := by
  rw [imageWellFormed, decide_eq_false_iff_not, Nat.not_le]

theorem State.loadImage_of_closed (s : State) (bytes : List Byte) (closed : s.loadOpen = false) :
    s.loadImage bytes = .refused .loadNotPermitted :=
  if_pos closed

theorem State.loadImage_of_tooLong (s : State) {bytes : List Byte} (opened : s.loadOpen = true)
    (long : 3584 < bytes.length) : s.loadImage bytes = .refused .romTooLarge := by
  rw [State.loadImage, if_neg (by simp [opened]), if_pos (imageWellFormed_eq_false_iff.mpr long)]

theorem State.loadImage_of_fits (s : State) {bytes : List Byte} (opened : s.loadOpen = true)
    (fits : bytes.length ≤ 3584) :
    s.loadImage bytes = .next (s.setMem (Memory.writeBytes s.mem Config.progBase bytes)).closeLoad := by
  rw [State.loadImage, if_neg (by simp [opened]),
    if_neg fun long => Nat.not_le_of_lt (imageWellFormed_eq_false_iff.mp long) fits]

/-- Settles O27: the block write puts the image where R74 says, and no other byte is in its range. -/
theorem loadCopiesTheImageVerbatim : Obligations.LoadCopiesTheImageVerbatim := by
  intro s bytes strobe opened fits
  refine ⟨_, (step_of_nextStrobe strobe).trans (State.loadImage_of_fits _ opened fits), fun k inside => ?image,
    fun a outside => ?others, rfl⟩
  case image => exact Memory.read_writeBytes_add (List.getElem?_eq_getElem inside) s.mem Config.progBase
  case others =>
    refine read_writeBytes_of_notMem (addr := 0x200) fun within => ?_
    obtain ⟨low, high⟩ := mem_addressRange.mp within
    omega

/-- Settles O28: the window is checked first, then the length. -/
theorem loadIsRefusedOutsideItsWindowOrBounds : Obligations.LoadIsRefusedOutsideItsWindowOrBounds := by
  intro s bytes strobe
  rw [step_of_nextStrobe strobe]
  exact ⟨(s.setSchedule s.schedule.tail).loadImage_of_closed bytes,
    (s.setSchedule s.schedule.tail).loadImage_of_tooLong⟩

end Sys2Proof.Machine
end

section
/-! PROOFS. The decoder undoes the encoder (R91, R94, R97), on words and on bytes (R68). -/

namespace Sys2Proof

/-- The fields of an encoding are the operands, and its family and sub-opcode lead the decoder to its row. -/
theorem decodeWord_encode (i : Instr) : decodeWord (encode i) = .ok i := by
  cases i with
  | cls | ret => rfl
  | jp | call | ldI | jpV0 | seImm | sneImm | ldImm | addImm | rnd | seReg | sneReg | drw => simp [encode, decodeWord]
  | ldReg | orReg | andReg | xorReg | addReg | subReg | shr | subnReg | shl =>
    simp [encode, decodeWord, decodeFamily8]
  | skp | sknp => simp [encode, decodeWord, decodeFamilyE]
  | ldVxDt | ldVxK | ldDtVx | ldStVx | addI | ldF | ldB | stRegs | ldRegs =>
    simp [encode, decodeWord, decodeFamilyF]

/-- Two bytes and more decode as the word of the first two does. -/
theorem decodeBytes_eq_ok_iff {hi lo : Byte} {rest : List Byte} {i : Instr} :
    decodeBytes (hi :: lo :: rest) = .ok (i, rest) ↔ decodeWord (wordOfBytes hi lo) = .ok i := by
  rw [decodeBytes]
  cases decodeWord (wordOfBytes hi lo) <;> simp

/-- Settles O1, from the round trip on words; the two bytes of a word make the word. -/
theorem everyInstructionDecodesFromItsEncoding : Obligations.EveryInstructionDecodesFromItsEncoding := by
  intro i rest
  have word := decodeWord_encode i
  refine ⟨word, decodeBytes_eq_ok_iff.mpr ?_⟩
  rwa [wordOfBytes_slices]

/-- Settles O2, from the branch of the decoder that answered. -/
theorem everyRecognisedWordIsTheEncodingOfItsInstruction :
    Obligations.EveryRecognisedWordIsTheEncodingOfItsInstruction :=
  fun _ _ decoded => encode_of_decodeWord decoded

/-- Settles O5: each of the fifteen words is decoded. -/
theorem wordsOfTheSpecDecodeAsItSays : Obligations.WordsOfTheSpecDecodeAsItSays := by
  unfold Obligations.WordsOfTheSpecDecodeAsItSays
  decide

end Sys2Proof
end

section
/-! PROOFS. The decoder and the opcode table (R94, R95; decision D4): a row accepts exactly the words that decode to an
instruction of the row. -/

namespace Sys2Proof

/-! ### From the decoder to the table -/

/-- The encoding of every instruction is accepted by its own row. -/
theorem Laws.EncodingMatchesRow.all : ∀ i, Statement i
  | .cls => cls | .ret => ret
  | .jp nnn => jp nnn | .call nnn => call nnn | .ldI nnn => ldI nnn | .jpV0 nnn => jpV0 nnn
  | .seImm x kk => seImm x kk | .sneImm x kk => sneImm x kk | .ldImm x kk => ldImm x kk
  | .addImm x kk => addImm x kk | .rnd x kk => rnd x kk
  | .seReg x y => seReg x y | .sneReg x y => sneReg x y
  | .ldReg x y => ldReg x y | .orReg x y => orReg x y | .andReg x y => andReg x y | .xorReg x y => xorReg x y
  | .addReg x y => addReg x y | .subReg x y => subReg x y | .shr x y => shr x y | .subnReg x y => subnReg x y
  | .shl x y => shl x y
  | .drw x y n => drw x y n
  | .skp x => skp x | .sknp x => sknp x
  | .ldVxDt x => ldVxDt x | .ldVxK x => ldVxK x | .ldDtVx x => ldDtVx x | .ldStVx x => ldStVx x
  | .addI x => addI x | .ldF x => ldF x | .ldB x => ldB x | .stRegs x => stRegs x | .ldRegs x => ldRegs x

/-- A recognised word is accepted by the row of its instruction. -/
theorem exists_row_of_decodeWord {w : Word} {i : Instr} (decoded : decodeWord w = .ok i) :
    ∃ r, opcodeTable[rowIndex i]? = some r ∧ r.accepts w := by
  rw [← encode_of_decodeWord decoded]
  exact Laws.EncodingMatchesRow.all i

/-- A word that is not recognised is rejected under its own name. -/
theorem eq_unrecognised_of_decodeWord {w : Word} {e : DecodeReject} (rejected : decodeWord w = .error e) :
    e = .unrecognised w := by
  simp only [decodeWord, decodeFamily0, decodeFamily8, decodeFamilyE, decodeFamilyF] at rejected
  repeat' split at rejected
  all_goals cases rejected
  all_goals rfl

/-- A word that no row accepts is unrecognised (R95). -/
theorem decodeWord_of_forall_not_accepts {w : Word} (unaccepted : ∀ r ∈ opcodeTable, ¬ r.accepts w) :
    decodeWord w = .error (.unrecognised w) := by
  cases decoded : decodeWord w with
  | ok i =>
    obtain ⟨r, row, accepts⟩ := exists_row_of_decodeWord decoded
    exact absurd accepts (unaccepted r (List.mem_of_getElem? row))
  | error e => rw [eq_unrecognised_of_decodeWord decoded]

/-! ### From the table to the decoder -/

/-- The bits a mask covers are the pattern's in every word the row accepts. -/
theorem OpcodeRow.slice_of_accepts {r : OpcodeRow} {w : Word} (accepts : r.accepts w) {start len : Nat}
    (covered : r.mask.extractLsb' start len = BitVec.allOnes len) :
    w.extractLsb' start len = r.pattern.extractLsb' start len := by
  rw [← accepts, BitVec.extractLsb'_and, covered, BitVec.and_allOnes]

/-- Every mask covers the family. -/
theorem fieldOp_of_accepts {k : Nat} {r : OpcodeRow} {w : Word} (row : opcodeTable[k]? = some r)
    (accepts : r.accepts w) : fieldOp w = fieldOp r.pattern := by
  have covered : ∀ r ∈ opcodeTable, fieldOp r.mask = BitVec.allOnes 4 := by decide
  exact OpcodeRow.slice_of_accepts accepts (covered r (List.mem_of_getElem? row))

/-- A word that the row of some instruction accepts decodes to an instruction of that row: the family, and the
sub-opcode where the mask covers it, choose the branch of the decoder. -/
theorem map_rowIndex_of_accepts {i : Instr} {r : OpcodeRow} {w : Word} (row : opcodeTable[rowIndex i]? = some r)
    (accepts : r.accepts w) : (decodeWord w).map rowIndex = .ok (rowIndex i) := by
  have covered {start len : Nat} := OpcodeRow.slice_of_accepts accepts (start := start) (len := len)
  rw [decodeWord, fieldOp_of_accepts row accepts]
  cases i with
  | cls | ret =>
    cases row
    have word : w = _ := (BitVec.and_allOnes (x := w)).symm.trans accepts
    rw [word]
    rfl
  | jp | call | ldI | jpV0 | seImm | sneImm | ldImm | addImm | rnd | drw =>
    cases row
    rfl
  | seReg | sneReg =>
    cases row
    have n : fieldN w = _ := covered rfl
    rw [n]
    rfl
  | ldReg | orReg | andReg | xorReg | addReg | subReg | shr | subnReg | shl =>
    cases row
    have n : fieldN w = _ := covered rfl
    rw [decodeFamily8, n]
    rfl
  | skp | sknp =>
    cases row
    have kk : fieldKK w = _ := covered rfl
    rw [decodeFamilyE, kk]
    rfl
  | ldVxDt | ldVxK | ldDtVx | ldStVx | addI | ldF | ldB | stRegs | ldRegs =>
    cases row
    have kk : fieldKK w = _ := covered rfl
    rw [decodeFamilyF, kk]
    rfl

/-- The instruction a word decodes to, where its row is known. -/
theorem exists_instr_of_map_rowIndex {w : Word} {k : Nat} (decoded : (decodeWord w).map rowIndex = .ok k) :
    ∃ i, decodeWord w = .ok i ∧ rowIndex i = k := by
  cases h : decodeWord w with
  | ok i =>
    rw [h] at decoded
    exact ⟨i, rfl, Except.ok.inj decoded⟩
  | error e =>
    rw [h] at decoded
    cases decoded

/-- Every row of the table is the row of some instruction: the one its pattern decodes to. -/
theorem exists_instr_of_row {k : Nat} {r : OpcodeRow} (row : opcodeTable[k]? = some r) : ∃ i, rowIndex i = k := by
  have patterns : ∀ k : Fin 34, ∀ r ∈ opcodeTable[k.val]?, (decodeWord r.pattern).map rowIndex = .ok k.val := by
    decide
  obtain ⟨inTable, -⟩ := List.getElem?_eq_some_iff.mp row
  obtain ⟨i, -, index⟩ := exists_instr_of_map_rowIndex (patterns ⟨k, inTable⟩ r row)
  exact ⟨i, index⟩

/-- A row accepts exactly the words that decode to an instruction of the row. -/
theorem accepts_iff_map_rowIndex {k : Nat} {r : OpcodeRow} {w : Word} (row : opcodeTable[k]? = some r) :
    r.accepts w ↔ (decodeWord w).map rowIndex = .ok k := by
  constructor
  · intro accepts
    obtain ⟨i, rfl⟩ := exists_instr_of_row row
    exact map_rowIndex_of_accepts row accepts
  · intro decoded
    obtain ⟨i, word, rfl⟩ := exists_instr_of_map_rowIndex decoded
    obtain ⟨r', row', accepts⟩ := exists_row_of_decodeWord word
    cases row.symm.trans row'
    exact accepts

/-- Settles O3, from the two directions between the decoder and the table. -/
theorem decoderAgreesWithTheOpcodeTable : Obligations.DecoderAgreesWithTheOpcodeTable := by
  intro w
  refine ⟨⟨?rejected, decodeWord_of_forall_not_accepts⟩, fun _ => eq_unrecognised_of_decodeWord,
    fun _ => exists_row_of_decodeWord⟩
  case rejected =>
    intro rejected r mem accepts
    obtain ⟨k, row⟩ := List.mem_iff_getElem?.mp mem
    have decoded := (accepts_iff_map_rowIndex row).mp accepts
    rw [rejected] at decoded
    cases decoded

/-- Settles O4: a word decodes to an instruction of one row only. -/
theorem noTwoOpcodeRowsAcceptTheSameWord : Obligations.NoTwoOpcodeRowsAcceptTheSameWord := by
  intro w j k r r' row row' accepts accepts'
  have first := (accepts_iff_map_rowIndex row).mp accepts
  have second := (accepts_iff_map_rowIndex row').mp accepts'
  exact Except.ok.inj (first.symm.trans second)

end Sys2Proof
end

section
/-! PROOFS. A step strobe neither halted nor waiting, with `pc` inside the bound of the fetch (R90):
it gives the word at `pc` to the decoder, which leads to an instruction or to a decode fault (R95, R181). -/

namespace Sys2Proof.Machine

section

variable {s : State} (sound : s.fault = none) (idle : s.await = .none) (fetched : s.pc.toNat + 1 ≤ 0xFFF)

include sound idle fetched

/-- The cycle of R90, up to the decoder. -/
theorem State.execCycle_of_fetched : s.execCycle = s.closeLoad.execWord s.wordAtPc := by
  have fetch : s.fetch = .ok s.wordAtPc := State.fetch_eq_wordOfBytes rfl fetched
  simp [State.execCycle, sound, idle, State.runCycle, fetch]

/-- A step strobe serves that cycle, with the schedule moved on. -/
theorem step_of_fetched (strobe : s.nextStrobe = .exec) :
    step s = (s.setSchedule s.schedule.tail).closeLoad.execWord s.wordAtPc :=
  (step_of_nextStrobe strobe).trans (State.execCycle_of_fetched (s := s.setSchedule s.schedule.tail) sound idle fetched)

/-- What a step strobe on an unrecognised word reports (R202). -/
theorem State.outcome_of_rejected {e : DecodeReject} (rejected : decodeWord s.wordAtPc = .error e) :
    s.outcome = some (.decodeFault s.wordAtPc) := by
  have fetch : s.fetch = .ok s.wordAtPc := State.fetch_eq_wordOfBytes rfl fetched
  simp [State.outcome, sound, idle, fetch, rejected]

end

/-- Settles O7: the two bytes at `pc` are the fetched word. -/
theorem stepRunsTheInstructionAtPc : Obligations.StepRunsTheInstructionAtPc := by
  intro s i strobe sound idle fetched decoded
  have word : decodeWord s.wordAtPc = .ok i := decodeBytes_eq_ok_iff.mp decoded
  rw [step_of_fetched sound idle fetched strobe, State.execWord, word]
  rfl

/-- Settles O9: a word that no row accepts is rejected, and one increment is the closed form at one fault. -/
theorem unrecognisedWordIsCountedAndSkipped : Obligations.UnrecognisedWordIsCountedAndSkipped := by
  intro s strobe sound idle fetched unaccepted
  have rejected := decodeWord_of_forall_not_accepts unaccepted
  have count : dfcAfter Config.dfcWidth 1 s.dfc = dfcIncrement Config.dfcWidth s.dfc :=
    (dfcIncrement_iterate Config.dfcWidth 1 s.dfc).symm
  refine ⟨?_, State.outcome_of_rejected sound idle fetched rejected⟩
  rw [step_of_fetched sound idle fetched strobe, State.execWord, rejected, count]
  rfl

end Sys2Proof.Machine
end

section
/-! PROOFS. Control transfer (R111 to R114): the jumps, the call and the return, and the call undone by the return. -/

namespace Sys2Proof.Machine

/-! ### The jumps -/

/-- The address of a jump or a call is `pc` as a number (R111, R112). -/
theorem toNat_absolute (nnn : Address) : (absolute nnn).toNat = nnn.toNat :=
  BitVec.toNat_setWidth_of_le (by decide)

/-- The indexed target is the sum as a number (R113, decision D30). -/
theorem State.toNat_indexedTarget (s : State) (nnn : Address) :
    (s.indexedTarget nnn).toNat = nnn.toNat + (s.readV 0).toNat := by
  have hn := nnn.isLt
  have hv := (s.readV 0).isLt
  rw [State.indexedTarget_eq, BitVec.toNat_ofNat]
  omega

/-- Settles O31: `1nnn` encodes the jump, and `nnn` is less than 2^16. -/
theorem jumpSetsPcToItsAddress : Obligations.JumpSetsPcToItsAddress :=
  fun nnn s => ⟨decodeWord_encode (.jp nnn), completed s (.jp nnn), exec_of_raises_none rfl nofun,
    toNat_absolute nnn, completed_frame s (.jp nnn)⟩

/-- Settles O32: the sum is less than 2^16. -/
theorem indexedJumpAddsV0WithoutWrapping : Obligations.IndexedJumpAddsV0WithoutWrapping :=
  fun nnn s => ⟨s.setPc (s.indexedTarget nnn), rfl, s.toNat_indexedTarget nnn, (Frame.refl {} s).setPc _⟩

/-! ### The call -/

section

variable {s : State} (nnn : Address)

/-- A call with an entry left above `SP` completes (R112). -/
theorem exec_call_of_room (room : s.sp.toNat < 15) : exec (.call nnn) s = .next (completed s (.call nnn)) :=
  exec_of_raises_none (if_neg (Nat.not_le_of_lt room)) nofun

theorem sp_completed_call (room : s.sp.toNat < 15) : (completed s (.call nnn)).sp.toNat = s.sp.toNat + 1 := by
  show (s.sp + 1).toNat = s.sp.toNat + 1
  bv_omega

/-- The entry a call pushes is the address behind it (R112, decision D1). -/
theorem pushed_completed_call (room : s.sp.toNat < 15) :
    (completed s (.call nnn)).stack[s.sp.toNat + 1]? = some (s.pc + 2) :=
  Vector.getElem?_setIfInBounds_self_of_lt (by omega)

end

/-- Settles O33: the bound check of R183 chooses between the push and the fault. -/
theorem callPushesTheReturnAddressOrOverflows : Obligations.CallPushesTheReturnAddressOrOverflows :=
  fun nnn s =>
    ⟨fun room => ⟨completed s (.call nnn), exec_call_of_room nnn room, sp_completed_call nnn room,
      pushed_completed_call nnn room, toNat_absolute nnn, completed_frame s (.call nnn)⟩,
    fun full => exec_of_raises_some (i := .call nnn) (if_pos full) nofun⟩

/-! ### The return -/

/-- A return on an entry of the stack completes (R114). -/
theorem exec_ret_of_entry {s : State} (nonempty : 1 ≤ s.sp.toNat) (entry : s.sp.toNat ≤ 15) :
    exec .ret s = .next (completed s .ret) :=
  exec_of_raises_none (if_neg (Nat.ne_of_gt nonempty)) fun _ => entry

/-- A return takes `pc` from the entry at `SP` (R114). -/
theorem pc_completed_ret {s : State} {ret : Word} (top : s.stack[s.sp.toNat]? = some ret) :
    (completed s .ret).pc = ret := by
  show s.stack[s.sp.toNat]?.getD s.pc = ret
  rw [top, Option.getD_some]

/-- Settles O34: the entry at `SP` exists from 1 to 15, and the check of R184 stops a return at 0. -/
theorem returnPopsTheStackOrUnderflows : Obligations.ReturnPopsTheStackOrUnderflows := by
  intro s
  refine ⟨fun nonempty entry => ⟨completed s .ret, exec_ret_of_entry nonempty entry,
    pc_completed_ret (Vector.getElem?_eq_getElem (Nat.lt_succ_of_le entry)), ?popped, completed_frame s .ret⟩,
    fun empty => exec_of_raises_some (i := .ret) (if_pos empty) fun _ => empty.trans_le (Nat.zero_le _)⟩
  case popped =>
    show (s.sp - 1).toNat = s.sp.toNat - 1
    bv_omega

/-- Settles O35: the return finds the entry that the call pushed, and takes back the 1 that the call added to `SP`;
it writes nothing else, so the frame is the call's with `SP` unchanged. -/
theorem returnUndoesACall : Obligations.ReturnUndoesACall := by
  intro nnn s room
  let t := completed s (.call nnn)
  have sp : t.sp.toNat = s.sp.toNat + 1 := sp_completed_call nnn room
  have top : t.stack[t.sp.toNat]? = some (s.pc + 2) := by rw [sp, pushed_completed_call nnn room]
  have back : (completed t .ret).sp = s.sp := BitVec.add_sub_cancel s.sp 1
  exact ⟨t, completed t .ret, exec_call_of_room nnn room, exec_ret_of_entry (by omega) (by omega),
    pc_completed_ret top, back, { completed_frame s (.call nnn) with sp := fun _ => back }⟩

end Sys2Proof.Machine
end

section
/-! PROOFS. The register-compare skips (R121 to R124): two skips on complementary conditions, and the low digit that
families 5 and 9 need (decision D4). -/

namespace Sys2Proof.Machine

/-! ### Where a pair of skips goes on -/

section

variable (s : State) {a b : Byte}

/-- On equal numbers the skip on equality is taken and the skip on difference is not. -/
theorem skipTarget_of_toNat_eq (same : a.toNat = b.toNat) :
    skipTarget s (a == b) = s.pc + 4 ∧ skipTarget s (a != b) = s.pc + 2 := by
  obtain rfl := BitVec.eq_of_toNat_eq same
  simp [skipTarget]

/-- On different numbers the skip on difference is taken and the skip on equality is not. -/
theorem skipTarget_of_toNat_ne (differ : a.toNat ≠ b.toNat) :
    skipTarget s (a == b) = s.pc + 2 ∧ skipTarget s (a != b) = s.pc + 4 := by
  have apart : a ≠ b := fun same => differ (congrArg BitVec.toNat same)
  simp [skipTarget, apart]

end

/-- Settles O36: neither skip raises a fault, and each leaves `pc` at its target. -/
theorem immediateSkipsCompareARegister : Obligations.ImmediateSkipsCompareARegister :=
  fun x kk s => ⟨completed s (.seImm x kk), completed s (.sneImm x kk), exec_of_raises_none rfl nofun,
    exec_of_raises_none rfl nofun, skipTarget_of_toNat_eq s, skipTarget_of_toNat_ne s,
    completed_frame s (.seImm x kk), completed_frame s (.sneImm x kk)⟩

/-! ### The low digit -/

/-- Families 5 and 9 have no instruction whose low digit is not 0 (R95, decision D4). -/
theorem decodeWord_of_fieldN_ne_zero {w : Word} (op : fieldOp w = 0x5#4 ∨ fieldOp w = 0x9#4) (n : fieldN w ≠ 0x0#4) :
    decodeWord w = .error (.unrecognised w) := by
  rcases op with five | nine
  · rw [decodeWord, five]
    exact if_neg n
  · rw [decodeWord, nine]
    exact if_neg n

/-- Settles O37: the pair of skips goes on as the immediate pair does, and the low digit of the word is `n`. -/
theorem registerSkipsCompareTwoRegisters : Obligations.RegisterSkipsCompareTwoRegisters := by
  intro x y s
  refine ⟨⟨completed s (.seReg x y), completed s (.sneReg x y), exec_of_raises_none rfl nofun,
    exec_of_raises_none rfl nofun, skipTarget_of_toNat_eq s, skipTarget_of_toNat_ne s,
    completed_frame s (.seReg x y), completed_frame s (.sneReg x y)⟩, ?lowDigit⟩
  case lowDigit =>
    intro n nonzero
    have rejected (op : Nibble) (family : op = 0x5#4 ∨ op = 0x9#4) (i : Instr) :
        decodeWord (op ++ x ++ y ++ n) ≠ .ok i := by
      rw [decodeWord_of_fieldN_ne_zero (by rwa [fieldOp_field4]) (by rwa [fieldN_field4])]
      nofun
    exact ⟨rejected 0x5#4 (.inl rfl), rejected 0x9#4 (.inr rfl)⟩

end Sys2Proof.Machine
end

section
/-! PROOFS. Register load and ALU (R130 to R143): the results and flags of the flag writers as numbers, and each
instruction's one or two register writes read back (decision D3). -/

namespace Sys2Proof.Machine

/-! ### Results and flags as numbers -/

section

variable (a b : Byte)

theorem toNat_sum8 : (sum8 a b).toNat = (a.toNat + b.toNat) % 256 := by
  rw [sum8, BitVec.toNat_ofNat]
  omega

/-- Adding 256 first keeps the difference a natural number on both sides of the borrow (R142). -/
theorem toNat_difference8 : (difference8 a b).toNat = (a.toNat + 256 - b.toNat) % 256 := by
  have ha := a.isLt
  rw [difference8, BitVec.toNat_ofNat]
  split <;> omega

theorem toNat_shiftRight8 : (shiftRight8 a).toNat = a.toNat / 2 :=
  BitVec.toNat_ushiftRight a 1

theorem toNat_shiftLeft8 : (shiftLeft8 a).toNat = a.toNat * 2 % 256 := by
  rw [shiftLeft8, BitVec.toNat_shiftLeft, Nat.shiftLeft_eq]

theorem flagByte_decide (p : Prop) [Decidable p] : flagByte (decide p) = if p then 1 else 0 := by
  simp [flagByte]

theorem toNat_and_one : (a &&& 1).toNat = a.toNat % 2 :=
  (BitVec.toNat_and a 1).trans (Nat.and_one_is_mod a.toNat)

/-- The bit out on the left is bit 7, and a byte has no bit above it (R140). -/
theorem toNat_shiftLeftFlag : (shiftLeftFlag a).toNat = a.toNat / 128 := by
  have ha := a.isLt
  rw [shiftLeftFlag, toNat_and_one, BitVec.toNat_ushiftRight, Nat.shiftRight_eq_div_pow]
  omega

end

/-! ### The flag writers -/

/-- The result is written last: it stays, also in register F (R143, decision D3). -/
theorem State.flagThenResult_readV_self (s : State) (x : Reg) (flag result : Byte) :
    (s.flagThenResult x flag result).readV x = result := by
  rw [State.flagThenResult, State.advance_readV, State.readV_setV_self]

/-- Settles O41: the sum is written last, and the carry flag is 1 exactly when the sum exceeds 255. -/
theorem addRegisterSetsTheCarry : Obligations.AddRegisterSetsTheCarry := by
  intro x y s
  refine ⟨_, rfl, ?sum, fun other => ?carry, rfl, completed_frame s (.addReg x y)⟩
  case sum => rw [State.flagThenResult_readV_self, toNat_sum8]
  case carry => rw [State.flagThenResult_readV_VF s _ _ other, carryFlag, flagByte_decide]

/-- Settles O42: both subtractions end alike, with minuend and subtrahend exchanged. -/
theorem subtractionsSetNoBorrow : Obligations.SubtractionsSetNoBorrow := by
  intro x y s
  refine ⟨⟨_, rfl, ?difference, fun other => ?noBorrow, rfl, completed_frame s (.subReg x y)⟩,
    ⟨_, rfl, ?difference', fun other => ?noBorrow', rfl, completed_frame s (.subnReg x y)⟩⟩
  case difference | difference' => rw [State.flagThenResult_readV_self, toNat_difference8]
  case noBorrow | noBorrow' => rw [State.flagThenResult_readV_VF s _ _ other, noBorrowFlag, flagByte_decide]

/-- Settles O43: the next state of a shift does not name `y`, so one state answers for `y` and `y'`. -/
theorem shiftsMoveOneBitAndIgnoreY : Obligations.ShiftsMoveOneBitAndIgnoreY := by
  intro x y y' s
  refine ⟨⟨_, rfl, rfl, ?half, fun other => ?lowBit, rfl, completed_frame s (.shr x y)⟩,
    ⟨_, rfl, rfl, ?double, fun other => ?highBit, rfl, completed_frame s (.shl x y)⟩⟩
  case half => rw [State.flagThenResult_readV_self, toNat_shiftRight8]
  case lowBit => rw [State.flagThenResult_readV_VF s _ _ other, shiftRightFlag, toNat_and_one]
  case double => rw [State.flagThenResult_readV_self, toNat_shiftLeft8]
  case highBit => rw [State.flagThenResult_readV_VF s _ _ other, toNat_shiftLeftFlag]

/-! ### The instructions that write one register -/

/-- Settles O38: each load writes its operand to `V[x]` and nothing else. -/
theorem loadsCopyAnImmediateOrARegister : Obligations.LoadsCopyAnImmediateOrARegister :=
  fun x y kk s =>
    ⟨decodeWord_encode (.ldImm x kk), decodeWord_encode (.ldReg x y),
      ⟨_, rfl, s.readV_setV_self x kk, rfl, completed_frame s (.ldImm x kk)⟩,
      ⟨_, rfl, s.readV_setV_self x (s.readV y), rfl, completed_frame s (.ldReg x y)⟩⟩

/-- Settles O39: the one write is the reduced sum to `V[x]`. -/
theorem addImmediateWrapsWithoutAFlag : Obligations.AddImmediateWrapsWithoutAFlag := by
  intro x kk s
  refine ⟨decodeWord_encode (.addImm x kk), _, rfl, ?sum, rfl, completed_frame s (.addImm x kk)⟩
  case sum => rw [State.advance_readV, State.readV_setV_self, toNat_sum8]

/-- Settles O40: the one write is the operation on the bytes, which the library's bit vectors do bit by bit. -/
theorem logicOperationsWorkBitByBit : Obligations.LogicOperationsWorkBitByBit := by
  intro x y s
  refine ⟨⟨_, rfl, fun j _ => ?or, rfl, completed_frame s (.orReg x y)⟩,
    ⟨_, rfl, fun j _ => ?and, rfl, completed_frame s (.andReg x y)⟩,
    ⟨_, rfl, fun j _ => ?xor, rfl, completed_frame s (.xorReg x y)⟩⟩
  case or => rw [State.advance_readV, State.readV_setV_self, BitVec.getLsbD_or]
  case and => rw [State.advance_readV, State.readV_setV_self, BitVec.getLsbD_and]
  case xor => rw [State.advance_readV, State.readV_setV_self, BitVec.getLsbD_xor]

/-- Settles O44: the one write is the masked sample, and the mask is taken bit by bit, whatever the sample is. -/
theorem randomByteIsOneFreshMaskedSample : Obligations.RandomByteIsOneFreshMaskedSample := by
  intro x kk s
  have masked : (completed s (.rnd x kk)).readV x = Config.rnd s.rndCount &&& kk := s.readV_setV_self x _
  refine ⟨completed s (.rnd x kk), rfl, rfl, fun j _ => ?bit, ?none, ?all, rfl, completed_frame s (.rnd x kk)⟩
  case bit => rw [masked, BitVec.getLsbD_and]
  case none =>
    rintro rfl
    exact masked.trans BitVec.and_zero
  case all =>
    rintro rfl
    exact masked.trans BitVec.and_allOnes

end Sys2Proof.Machine
end

section
/-! PROOFS. The index register (R150 to R152), and the register block that `Fx65` brings back after `Fx55` (S6). -/

namespace Sys2Proof.Machine

/-! ### The index register -/

/-- The reduced sum is less than 2^16, so the word holds it whole (R151). -/
theorem toNat_indexSum (i : Word) (a : Byte) : (indexSum i a).toNat = (i.toNat + a.toNat) % 4096 := by
  rw [indexSum, BitVec.toNat_ofNat]
  omega

/-- Five times a byte is less than 2^16, so the product is not reduced (R152, decision D27). -/
theorem toNat_glyphAddress (a : Byte) : (glyphAddress a).toNat = a.toNat * 5 := by
  have ha := a.isLt
  rw [glyphAddress, BitVec.toNat_ofNat]
  omega

/-- Settles O45: each instruction writes `I` and nothing else, the address itself or the reduced sum. -/
theorem indexIsLoadedOrAddedModulo4096 : Obligations.IndexIsLoadedOrAddedModulo4096 :=
  fun x nnn s =>
    ⟨decodeWord_encode (.ldI nnn), decodeWord_encode (.addI x),
      ⟨completed s (.ldI nnn), exec_of_raises_none rfl nofun, toNat_absolute nnn, rfl,
        completed_frame s (.ldI nnn)⟩,
      ⟨completed s (.addI x), exec_of_raises_none rfl nofun, toNat_indexSum s.i (s.readV x), rfl,
        completed_frame s (.addI x)⟩⟩

/-- Settles O46: the one write is the product, which does not name the old `I`. -/
theorem fontAddressIsFiveTimesTheByte : Obligations.FontAddressIsFiveTimesTheByte :=
  fun x s => ⟨completed s (.ldF x), exec_of_raises_none rfl nofun, toNat_glyphAddress (s.readV x), rfl,
    completed_frame s (.ldF x)⟩

/-! ### The register block -/

/-- Settles O50: `I` unchanged (R156) puts the load on the stored block, so its bound holds again and `V[k]` is read
where it was stored. -/
theorem storedRegistersComeBackWhenLoaded : Obligations.StoredRegistersComeBackWhenLoaded := by
  intro x s fits
  refine ⟨completed s (.stRegs x), exec_of_raises_none (dataFault_of_le fits) nofun, rfl, ?_⟩
  intro u index memory
  have base : u.dataBase = s.dataBase := congrArg BitVec.toNat index
  have fits' : u.dataBase + x.toNat ≤ 0xFFF := by rwa [base]
  refine ⟨completed u (.ldRegs x), exec_of_raises_none (dataFault_of_le fits') nofun, fun k le => ?_⟩
  calc (completed u (.ldRegs x)).readV k
    _ = Memory.read u.mem (u.dataBase + k.toNat) := readV_completed_ldRegs le
    _ = Memory.read (completed s (.stRegs x)).mem (s.dataBase + k.toNat) := by rw [memory, base]
    _ = s.readV k := read_completed_stRegs le

end Sys2Proof.Machine
end

section
/-! PROOFS. Display (R160 to R163): what one sprite bit does to the display (`Draw.plot`) adds up, bit by bit and
row by row, to what the whole sprite does; no two bits of a sprite land on one pixel, so each is XORed once. -/

namespace Sys2Proof.Machine

/-! ### The XOR of a set of pixels -/

/-- From `d` to `d'` exactly the pixels of `hits` are toggled, each once, and the two Booleans say so (R162). -/
structure Xored (hits : Fin 32 → Fin 64 → Prop) (d d' : Draw) : Prop where
  /-- A pixel hit is toggled. -/
  hit : ∀ r c, hits r c → pixel d'.disp r c = !pixel d.disp r c
  /-- Every other pixel stays. -/
  miss : ∀ r c, ¬ hits r c → pixel d'.disp r c = pixel d.disp r c
  /-- A collision is a hit on a set pixel. -/
  collision : d'.collision = true ↔ d.collision = true ∨ ∃ r c, hits r c ∧ pixel d.disp r c = true
  /-- A toggle is a hit. -/
  toggled : d'.toggled = true ↔ d.toggled = true ∨ ∃ r c, hits r c

namespace Xored

variable {hits more : Fin 32 → Fin 64 → Prop} {d d' d'' : Draw}

theorem congr (h : Xored hits d d') (same : ∀ r c, more r c ↔ hits r c) : Xored more d d' := by
  obtain rfl : more = hits := funext₂ fun r c => propext (same r c)
  exact h

theorem refl (none : ∀ r c, ¬ hits r c) : Xored hits d d where
  hit r c h := absurd h (none r c)
  miss _ _ _ := rfl
  collision := by simp [none]
  toggled := by simp [none]

theorem plot (d : Draw) (r : Fin 32) (c : Fin 64) : Xored (fun r' c' => r' = r ∧ c' = c) d (d.plot r c) where
  hit := by
    rintro _ _ ⟨rfl, rfl⟩
    rw [Draw.plot_pixel, if_pos ⟨rfl, rfl⟩]
  miss r' c' other := by rw [Draw.plot_pixel, if_neg other]
  collision := by simp
  toggled := by simp

/-- Disjoint sets of pixels, one after the other: the second finds its pixels as the first did. -/
theorem trans (h : Xored hits d d') (h' : Xored more d' d'') (apart : ∀ r c, hits r c → ¬ more r c) :
    Xored (fun r c => hits r c ∨ more r c) d d'' where
  hit r c := by
    rintro (first | second)
    · rw [h'.miss r c (apart r c first), h.hit r c first]
    · rw [h'.hit r c second, h.miss r c fun first => apart r c first second]
  miss r c neither := by
    rw [not_or] at neither
    rw [h'.miss r c neither.2, h.miss r c neither.1]
  collision := by
    have found (r c) : more r c ∧ pixel d'.disp r c = true ↔ more r c ∧ pixel d.disp r c = true :=
      and_congr_right fun second => by rw [h.miss r c fun first => apart r c first second]
    simp only [h'.collision, h.collision, found, or_and_right, exists_or, or_assoc]
  toggled := by simp only [h'.toggled, h.toggled, exists_or, or_assoc]

/-- The XOR of the same pixels again takes the first one back (R163). -/
theorem disp_of_twice {e e' : Draw} (h : Xored hits d d') (again : Xored hits e e') (start : e.disp = d'.disp) :
    e'.disp = d.disp := by
  refine display_ext fun r c => ?_
  by_cases hit : hits r c
  · rw [again.hit r c hit, start, h.hit r c hit, Bool.not_not]
  · rw [again.miss r c hit, start, h.miss r c hit]

end Xored

/-! ### The loop of `draw_sprite` -/

/-- A 1 bit in the first `m` columns of a sprite row lands on pixel `(r, c)`, both coordinates wrapped (R162). -/
def rowHits (x0 y : Nat) (byte : Byte) (m : Nat) (r : Fin 32) (c : Fin 64) : Prop :=
  r = Fin.ofNat 32 y ∧ ∃ j < m, byte.getLsbD (7 - j) = true ∧ c = Fin.ofNat 64 (x0 + j)

theorem rowHits_succ {x0 y : Nat} {byte : Byte} {m : Nat} (r : Fin 32) (c : Fin 64) :
    rowHits x0 y byte (m + 1) r c ↔ rowHits x0 y byte m r c ∨
      (byte.getLsbD (7 - m) = true ∧ r = Fin.ofNat 32 y ∧ c = Fin.ofNat 64 (x0 + m)) := by
  simp only [rowHits, Nat.lt_succ_iff_lt_or_eq, or_and_right, exists_or, exists_eq_left, and_or_left,
    and_left_comm (a := r = Fin.ofNat 32 y) (b := byte.getLsbD (7 - m) = true)]

/-- The columns of a row are at most 64 in number, so each lands on a pixel of its own. -/
theorem not_rowHits_column {x0 y : Nat} {byte : Byte} {m : Nat} (narrow : m < 64) (r : Fin 32) :
    ¬ rowHits x0 y byte m r (Fin.ofNat 64 (x0 + m)) := by
  rintro ⟨-, j, before, -, same⟩
  have wrapped : (x0 + m) % 64 = (x0 + j) % 64 := congrArg Fin.val same
  omega

/-- The loop over the first `m` columns of a row. -/
theorem xored_columns (x0 y : Nat) (byte : Byte) (d : Draw) {m : Nat} (narrow : m ≤ 64) :
    Xored (rowHits x0 y byte m) d ((List.range m).foldl
      (fun d j => if byte.getLsbD (7 - j) then d.plot (Fin.ofNat 32 y) (Fin.ofNat 64 (x0 + j)) else d) d) := by
  induction m with
  | zero => exact Xored.refl fun r c ⟨_, j, before, _⟩ => Nat.not_lt_zero j before
  | succ m ih =>
    rw [List.range_succ, List.foldl_append, List.foldl_cons, List.foldl_nil]
    have before := ih (Nat.le_of_succ_le narrow)
    split
    · next one =>
      refine (before.trans (.plot _ _ _) ?_).congr fun r c => by rw [rowHits_succ, and_iff_right one]
      rintro r _ hit ⟨-, rfl⟩
      exact not_rowHits_column narrow r hit
    · next zero => exact before.congr fun r c => by rw [rowHits_succ, or_iff_left fun last => zero last.1]

theorem xored_row (x0 y : Nat) (byte : Byte) (d : Draw) : Xored (rowHits x0 y byte 8) d (Draw.row x0 y byte d) :=
  xored_columns x0 y byte d (by decide)

theorem spriteHits_cons {x0 y : Nat} {byte : Byte} {bytes : List Byte} {r : Fin 32} {c : Fin 64} :
    spriteHits x0 y (byte :: bytes) r c ↔ rowHits x0 y byte 8 r c ∨ spriteHits x0 (y + 1) bytes r c := by
  constructor
  · rintro ⟨i, j, inside, column, one, row, col⟩
    cases i with
    | zero => exact .inl ⟨Fin.ext row, j, column, one, Fin.ext col⟩
    | succ i =>
      exact .inr ⟨i, j, Nat.lt_of_succ_lt_succ inside, column, one, by rw [row, Nat.succ_add_eq_add_succ], col⟩
  · rintro (⟨rfl, j, column, one, rfl⟩ | ⟨i, j, inside, column, one, row, col⟩)
    · exact ⟨0, j, Nat.succ_pos _, column, one, rfl, rfl⟩
    · exact ⟨i + 1, j, Nat.succ_lt_succ inside, column, one, by rw [row, Nat.succ_add_eq_add_succ], col⟩

/-- The rows of a sprite are at most 32 in number, so no later row lands on the first one. -/
theorem not_spriteHits_of_rowHits {x0 y : Nat} {byte : Byte} {m : Nat} {bytes : List Byte} {r : Fin 32} {c : Fin 64}
    (short : bytes.length < 32) (first : rowHits x0 y byte m r c) : ¬ spriteHits x0 (y + 1) bytes r c := by
  obtain ⟨rfl, -⟩ := first
  rintro ⟨i, j, inside, -, -, row, -⟩
  have wrapped : y % 32 = (y + 1 + i) % 32 := row
  omega

theorem xored_rows {bytes : List Byte} (x0 y : Nat) (d : Draw) (short : bytes.length ≤ 32) :
    Xored (spriteHits x0 y bytes) d (Draw.rows x0 y bytes d) := by
  induction bytes generalizing y d with
  | nil => exact Xored.refl fun r c ⟨i, j, inside, _⟩ => Nat.not_lt_zero i inside
  | cons byte bytes ih =>
    have rest := ih (y + 1) (Draw.row x0 y byte d) (Nat.le_of_succ_le short)
    exact ((xored_row x0 y byte d).trans rest fun r c => not_spriteHits_of_rowHits short).congr
      fun r c => spriteHits_cons

/-- A byte with no 1 bit in its eight columns is zero. -/
theorem ne_zero_iff_exists_column {byte : Byte} : byte ≠ 0 ↔ ∃ j < 8, byte.getLsbD (7 - j) = true := by
  constructor
  · intro nonzero
    by_contra none
    refine nonzero (BitVec.eq_of_getLsbD_eq fun k inside => ?_)
    refine (Bool.eq_false_iff.mpr fun one => none ⟨7 - k, by omega, ?_⟩).trans BitVec.getLsbD_zero.symm
    rwa [Nat.sub_sub_self (by omega)]
  · rintro ⟨j, -, one⟩ rfl
    simp at one

/-- A sprite hits a pixel exactly when it has a 1 bit. -/
theorem exists_spriteHits_iff {x0 y : Nat} {bytes : List Byte} :
    (∃ r c, spriteHits x0 y bytes r c) ↔ ∃ byte ∈ bytes, byte ≠ 0 := by
  constructor
  · rintro ⟨r, c, i, j, inside, column, one, -⟩
    exact ⟨bytes[i], List.getElem_mem inside, ne_zero_iff_exists_column.mpr ⟨j, column, one⟩⟩
  · rintro ⟨byte, member, nonzero⟩
    obtain ⟨i, inside, rfl⟩ := List.getElem_of_mem member
    obtain ⟨j, column, one⟩ := ne_zero_iff_exists_column.mp nonzero
    exact ⟨Fin.ofNat 32 (y + i), Fin.ofNat 64 (x0 + j), i, j, inside, column, one, rfl, rfl⟩

section

variable (x0 y0 : Nat) {bytes : List Byte} (disp : Display)

theorem xored_drawSprite (short : bytes.length ≤ 15) :
    Xored (spriteHits x0 y0 bytes) { disp := disp, collision := false, toggled := false }
      (drawSprite x0 y0 bytes disp) :=
  xored_rows x0 y0 _ (short.trans (by decide))

theorem drawSprite_collision_iff (short : bytes.length ≤ 15) :
    (drawSprite x0 y0 bytes disp).collision = true ↔ ∃ r c, spriteHits x0 y0 bytes r c ∧ pixel disp r c = true := by
  simpa using (xored_drawSprite x0 y0 disp short).collision

theorem drawSprite_toggled_iff (short : bytes.length ≤ 15) :
    (drawSprite x0 y0 bytes disp).toggled = true ↔ ∃ byte ∈ bytes, byte ≠ 0 := by
  rw [(xored_drawSprite x0 y0 disp short).toggled, exists_spriteHits_iff]
  exact or_iff_right nofun

/-- The same sprite again takes the first draw back (R163). -/
theorem drawSprite_disp_twice (short : bytes.length ≤ 15) :
    (drawSprite x0 y0 bytes (drawSprite x0 y0 bytes disp).disp).disp = disp :=
  (xored_drawSprite x0 y0 disp short).disp_of_twice (xored_drawSprite x0 y0 _ short) rfl

/-- The second draw collides with the pixels that the first one turned on (C9, log entry 14). -/
theorem drawSprite_collision_twice_iff (short : bytes.length ≤ 15) :
    (drawSprite x0 y0 bytes (drawSprite x0 y0 bytes disp).disp).collision = true ↔
      ∃ r c, spriteHits x0 y0 bytes r c ∧ pixel disp r c = false := by
  rw [drawSprite_collision_iff x0 y0 _ short]
  refine exists₂_congr fun r c => and_congr_right fun hit => ?_
  rw [(xored_drawSprite x0 y0 disp short).hit r c hit, Bool.not_eq_true']

end

theorem State.drawn_dirty_iff (s : State) (x y : Reg) {bytes : List Byte} (short : bytes.length ≤ 15) :
    (s.drawn x y bytes).dirty = true ↔ s.dirty = true ∨ ∃ byte ∈ bytes, byte ≠ 0 := by
  rw [← drawSprite_toggled_iff (s.readV x).toNat (s.readV y).toNat s.disp short, ← Bool.or_eq_true]
  rfl

/-- Settles O53: the loop is the XOR of the pixels the sprite hits. -/
theorem drawSpriteXorsTheSpriteIntoTheDisplay : Obligations.DrawSpriteXorsTheSpriteIntoTheDisplay :=
  fun x0 y0 _ d short =>
    have drawn := xored_drawSprite x0 y0 d short
    ⟨drawn.hit, drawn.miss, drawSprite_collision_iff x0 y0 d short, drawSprite_toggled_iff x0 y0 d short,
      fun x y s => s.drawn_dirty_iff x y short⟩

/-! ### `Dxyn` -/

theorem flagByte_eq_one_iff {b : Bool} : flagByte b = 1 ↔ b = true := by
  cases b <;> decide

theorem flagByte_eq_zero_iff {b : Bool} : flagByte b = 0 ↔ ¬ b = true := by
  cases b <;> decide

/-- The bytes of a sprite are no more than the 15 that `n` can name (R161). -/
theorem length_spriteBytes_le (m : Memory) (addr : Nat) (n : Nibble) :
    (Memory.readBytes m addr n.toNat).length ≤ 15 := by
  rw [Memory.length_readBytes]
  exact Nat.le_of_lt_succ n.isLt

/-- A draw whose last byte exists, or of no byte, completes (R161, decision D18). -/
theorem exec_drw_of_fits {s : State} (x y : Reg) {n : Nibble} (fits : n = 0 ∨ s.dataBase + n.toNat - 1 ≤ 0xFFF) :
    exec (.drw x y n) s = .next (s.drawn x y (Memory.readBytes s.mem s.dataBase n.toNat)) := by
  refine exec_of_raises_none (i := .drw x y n) (if_neg ?_) nofun
  rintro ⟨nonzero, above⟩
  rcases fits with rfl | le
  · exact nonzero rfl
  · exact Nat.not_lt_of_le le above

section

variable (s : State) (x y : Reg) {bytes : List Byte} (short : bytes.length ≤ 15)

include short

theorem State.drawn_readV_VF_eq_one_iff : (s.drawn x y bytes).readV VF = 1 ↔
    ∃ r c, spriteHits (s.readV x).toNat (s.readV y).toNat bytes r c ∧ pixel s.disp r c = true := by
  rw [State.drawn_readV_VF, collisionFlag, flagByte_eq_one_iff, drawSprite_collision_iff _ _ _ short]

theorem State.drawn_readV_VF_eq_zero_iff : (s.drawn x y bytes).readV VF = 0 ↔
    ¬ ∃ r c, spriteHits (s.readV x).toNat (s.readV y).toNat bytes r c ∧ pixel s.disp r c = true := by
  rw [State.drawn_readV_VF, collisionFlag, flagByte_eq_zero_iff, drawSprite_collision_iff _ _ _ short]

end

/-- Settles O54: a completed draw is `State.drawn`, whose display and Booleans are those of the sprite's XOR. -/
theorem drawPutsTheSpriteAndTheCollision : Obligations.DrawPutsTheSpriteAndTheCollision := by
  intro x y n s bytes hits
  have short : bytes.length ≤ 15 := length_spriteBytes_le s.mem s.dataBase n
  have drawn : Xored hits _ _ := xored_drawSprite (s.readV x).toNat (s.readV y).toNat s.disp short
  refine ⟨fun fits => ⟨s.drawn x y bytes, exec_drw_of_fits x y fits, drawn.hit, drawn.miss,
    (s.drawn_readV_VF_eq_one_iff x y short).mpr, (s.drawn_readV_VF_eq_zero_iff x y short).mpr,
    s.drawn_dirty_iff x y short, rfl, completed_frame s (.drw x y n)⟩, fun nonzero above => ?fault⟩
  case fault =>
    have nonempty : n.toNat ≠ 0 := fun zero => nonzero (BitVec.eq_of_toNat_eq zero)
    exact exec_of_raises_some (i := .drw x y n) (if_pos ⟨nonempty, above⟩) nofun

/-- Settles O55: the second draw is the same sprite on the display that the first one left. -/
theorem drawingTwiceRestoresTheDisplay : Obligations.DrawingTwiceRestoresTheDisplay := by
  intro x y n s fits bytes hits
  have short : bytes.length ≤ 15 := length_spriteBytes_le s.mem s.dataBase n
  refine ⟨s.drawn x y bytes, exec_drw_of_fits x y fits, fun u disp mem index vx vy => ?_⟩
  have base : u.dataBase = s.dataBase := congrArg BitVec.toNat index
  have sprite : Memory.readBytes u.mem u.dataBase n.toNat = bytes := by rw [mem, base]
  have again : drawSprite (u.readV x).toNat (u.readV y).toNat bytes u.disp
      = drawSprite (s.readV x).toNat (s.readV y).toNat bytes (s.drawn x y bytes).disp := by rw [vx, vy, disp]
  have turnedOn : (u.drawn x y bytes).readV VF = 1 ↔ ∃ r c, hits r c ∧ pixel s.disp r c = false := by
    rw [State.drawn_readV_VF, collisionFlag, flagByte_eq_one_iff, again]
    exact drawSprite_collision_twice_iff _ _ s.disp short
  refine ⟨u.drawn x y bytes, sprite ▸ exec_drw_of_fits x y (by rwa [base]),
    (congrArg Draw.disp again).trans (drawSprite_disp_twice _ _ s.disp short), turnedOn, fun noCollision => ?hasOne⟩
  case hasOne =>
    have unset := (s.drawn_readV_VF_eq_zero_iff x y short).mp noCollision
    rw [turnedOn, ← exists_spriteHits_iff]
    exact exists₂_congr fun r c => and_iff_left_of_imp fun hit =>
      Bool.eq_false_iff.mpr fun on => unset ⟨r, c, hit, on⟩

/-! ### `00E0` -/

/-- Settles O52: the blank display does not depend on the old one. -/
theorem clearMakesEveryPixelFalse : Obligations.ClearMakesEveryPixelFalse :=
  fun s => ⟨decodeWord_encode .cls, completed s .cls, rfl, pixel_blankDisplay, rfl, rfl, completed_frame s .cls⟩

end Sys2Proof.Machine
end

section
/-! PROOFS. Timers and keys (R170 to R176): the whole-byte copies between a register and a timer, and the two key skips
on the level of one key, with the fault of an index that does not exist (decisions D2, D6). -/

namespace Sys2Proof.Machine

/-! ### The timers -/

/-- The `tone` port is `ST > 0` (R197). -/
theorem State.tone_eq_true_iff (s : State) : s.tone = true ↔ s.st.toNat > 0 := decide_eq_true_iff

/-- Settles O56: each copy is the one write of its instruction, and `tone` reads the timer that `Fx18` wrote. -/
theorem timerInstructionsCopyTheWholeByte : Obligations.TimerInstructionsCopyTheWholeByte :=
  fun x s =>
    ⟨decodeWord_encode (.ldVxDt x), decodeWord_encode (.ldDtVx x), decodeWord_encode (.ldStVx x),
      ⟨completed s (.ldVxDt x), exec_of_raises_none rfl nofun, State.readV_setV_self s x s.dt, rfl,
        completed_frame s (.ldVxDt x)⟩,
      ⟨completed s (.ldDtVx x), exec_of_raises_none rfl nofun, rfl, rfl, completed_frame s (.ldDtVx x)⟩,
      ⟨completed s (.ldStVx x), exec_of_raises_none rfl nofun, rfl, (completed s (.ldStVx x)).tone_eq_true_iff, rfl,
        completed_frame s (.ldStVx x)⟩⟩

/-! ### The key skips -/

section

variable {s : State} {x : Reg}

/-- An index of at most 15 raises no fault (R176). -/
theorem keyFault_of_le (low : (s.readV x).toNat ≤ 15) : keyFault s x = none :=
  if_neg (Nat.not_lt_of_le low)

/-- For an index that exists, `keyHeld` is the entry of `KEYS` itself. -/
theorem keyHeld_of_le (low : (s.readV x).toNat ≤ 15) : keyHeld s x = s.keys[(s.readV x).toNat] := by
  rw [keyHeld, Vector.getElem?_eq_getElem (Nat.lt_succ_of_le low), Option.getD_some]

/-- On a key that is down `Ex9E` skips and `ExA1` does not (R173, R174). -/
theorem pcAfter_of_keyHeld (down : keyHeld s x = true) :
    pcAfter s (.skp x) = s.pc + 4 ∧ pcAfter s (.sknp x) = s.pc + 2 := by
  simp [pcAfter, skipTarget, down]

/-- On a key that is up `ExA1` skips and `Ex9E` does not (R173, R174). -/
theorem pcAfter_of_not_keyHeld (up : keyHeld s x = false) :
    pcAfter s (.skp x) = s.pc + 2 ∧ pcAfter s (.sknp x) = s.pc + 4 := by
  simp [pcAfter, skipTarget, up]

end

/-- Settles O57: the index check of R176 chooses between the skips, which read the level of one key, and the fault. -/
theorem keySkipsTestTheLevelOrFault : Obligations.KeySkipsTestTheLevelOrFault := by
  intro x s
  refine ⟨fun low => ?skips, fun high => ?fault⟩
  case skips =>
    have quiet : keyFault s x = none := keyFault_of_le low
    have level : keyHeld s x = s.keys[(s.readV x).toNat] := keyHeld_of_le low
    exact ⟨completed s (.skp x), completed s (.sknp x),
      exec_of_raises_none quiet nofun, exec_of_raises_none quiet nofun,
      fun down => pcAfter_of_keyHeld (level.trans down), fun up => pcAfter_of_not_keyHeld (level.trans up),
      completed_frame s (.skp x), completed_frame s (.sknp x)⟩
  case fault =>
    have raised : keyFault s x = some ⟨.keyIndexOutOfRange, (s.readV x).toNat⟩ := if_pos high
    exact ⟨exec_of_raises_some (i := .skp x) raised nofun, exec_of_raises_some (i := .sknp x) raised nofun⟩

end Sys2Proof.Machine
end

section
/-! PROOFS. A step strobe that runs no instruction: the machine is halted, or waits (R190, R201), or the fetch leaves
the address space (R182).  What it does and what it reports (R202). -/

namespace Sys2Proof.Machine

section

variable {s : State}

/-- A halted machine is left alone by a step strobe, waiting or not (R190). -/
theorem State.execCycle_of_latched {f : FaultRecord} (latched : s.fault = some f) : s.execCycle = .next s := by
  simp [State.execCycle, latched]

theorem State.outcome_of_latched {f : FaultRecord} (latched : s.fault = some f) :
    s.outcome = some (.halted f.cause) := by
  simp [State.outcome, latched]

theorem State.outcome_of_waiting {x : Reg} (sound : s.fault = none) (waits : s.await = .waiting x) :
    s.outcome = some .waiting := by
  simp [State.outcome, sound, waits]

section

variable (sound : s.fault = none) (idle : s.await = .none) (above : s.pc.toNat + 1 > 0xFFF)

include sound idle above

/-- The cycle of R90 ends at the fetch. -/
theorem State.execCycle_of_fetchFault :
    s.execCycle = .next (s.closeLoad.takeFault ⟨.fetchOutOfBounds, s.pc.toNat⟩) := by
  have fetch : s.fetch = .error ⟨.fetchOutOfBounds, s.pc.toNat⟩ := if_pos above
  simp [State.execCycle, sound, idle, State.runCycle, fetch]

theorem State.outcome_of_fetchFault : s.outcome = some (.fatal .fetchOutOfBounds s.pc.toNat) := by
  have fetch : s.fetch = .error ⟨.fetchOutOfBounds, s.pc.toNat⟩ := if_pos above
  simp [State.outcome, sound, idle, fetch]

end

end

/-- Settles O8: the check of `FAULT` comes before the check of `AWAIT`. -/
theorem strobeWhileHaltedOrWaitingChangesNothing : Obligations.StrobeWhileHaltedOrWaitingChangesNothing := by
  intro s strobe
  rw [step_of_nextStrobe strobe]
  exact ⟨fun _ latched => ⟨State.execCycle_of_latched latched, State.outcome_of_latched latched⟩,
    fun _ sound waits => ⟨State.execCycle_of_waiting sound waits, State.outcome_of_waiting sound waits⟩⟩

/-- Settles O10: the strobe serves the cycle that ends at the fetch. -/
theorem fetchOutOfBoundsIsLatched : Obligations.FetchOutOfBoundsIsLatched :=
  fun s strobe sound idle above =>
    ⟨(step_of_nextStrobe strobe).trans
      (State.execCycle_of_fetchFault (s := s.setSchedule s.schedule.tail) sound idle above),
    State.outcome_of_fetchFault sound idle above⟩

end Sys2Proof.Machine
end

section
/-! PROOFS. The fault of an instruction is precise (R180, R188, R189), and the outcome a step strobe reports is what the
strobe did (R202): the cases of the cycle and of the `outcome` port are taken together, once. -/

namespace Sys2Proof.Machine

/-! ### The fault of an instruction -/

/-- The one fault of `00EE` is raised with `SP` at 0, where the model does not stop (R184). -/
theorem sp_le_of_raises {i : Instr} {s : State} {e : Trap} (raised : raises s i = some e) (ret : i = .ret) :
    s.sp.toNat ≤ 15 := by
  subst ret
  by_contra above
  rw [raises, if_neg (by omega)] at raised
  cases raised

/-- Settles O15: an instruction that raises a fault takes it from the state before it. -/
theorem everyExecutionFaultIsPrecise : Obligations.EveryExecutionFaultIsPrecise :=
  fun _ _ _ raised => exec_of_raises_some raised (sp_le_of_raises raised)

/-! ### The outcome of a step strobe -/

/-- What an instruction reports when the cycle reaches it (R202). -/
theorem State.outcome_of_decoded {s : State} {i : Instr} (sound : s.fault = none) (idle : s.await = .none)
    (fetched : s.pc.toNat + 1 ≤ 0xFFF) (decoded : decodeWord s.wordAtPc = .ok i) :
    s.outcome = reportOf (exec i s.closeLoad) := by
  have fetch : s.fetch = .ok s.wordAtPc := State.fetch_eq_wordOfBytes rfl fetched
  simp [State.outcome, sound, idle, fetch, decoded]

/-- No instruction that completes writes `FAULT` (R43). -/
theorem fault_completed_closeLoad {s : State} (sound : s.fault = none) (i : Instr) :
    (completed s.closeLoad i).fault = none :=
  (completed_frame s.closeLoad i).fault.trans sound

/-- `Reports s t o`: a cycle that takes `s` to `t` by the way whose outcome is `o` (R90, R202). -/
inductive Reports (s : State) : State → StepOutcome → Prop where
  /-- The fault was there before. -/
  | halted {f : FaultRecord} (latched : s.fault = some f) : Reports s s (.halted f.cause)
  /-- No fault, and a wait. -/
  | waiting {x : Reg} (sound : s.fault = none) (waits : s.await = .waiting x) : Reports s s .waiting
  /-- The fetch or the instruction raised a fault. -/
  | fatal (sound : s.fault = none) (e : Trap) : Reports s (s.closeLoad.takeFault e) (.fatal e.cause e.info)
  /-- The decoder rejected the word. -/
  | decodeFault (sound : s.fault = none) : Reports s s.closeLoad.decodeFault (.decodeFault s.wordAtPc)
  /-- The instruction completed. -/
  | ok {i : Instr} (sound : s.fault = none) (decoded : decodeWord s.wordAtPc = .ok i)
      (completes : exec i s.closeLoad = .next (completed s.closeLoad i)) : Reports s (completed s.closeLoad i) .ok

/-- A cycle with a next state reports the way it went. -/
theorem State.execCycle_reports {s t : State} (next : s.execCycle = .next t) :
    ∃ o, s.outcome = some o ∧ Reports s t o := by
  rcases s.execCycle_cases with ⟨halted, cycle⟩ | ⟨sound, ⟨x, waits⟩, cycle⟩ | ⟨sound, idle, above, cycle⟩ |
      ⟨sound, idle, fetched, ⟨e, rejected⟩, cycle⟩ | ⟨sound, idle, fetched, i, decoded, cycle⟩
  all_goals rw [cycle] at next
  case inl =>
    cases next
    obtain ⟨f, latched⟩ := Option.isSome_iff_exists.mp halted
    exact ⟨_, State.outcome_of_latched latched, .halted latched⟩
  case inr.inl =>
    cases next
    exact ⟨_, State.outcome_of_waiting sound waits, .waiting sound waits⟩
  case inr.inr.inl =>
    cases next
    exact ⟨_, State.outcome_of_fetchFault sound idle (Nat.succ_lt_succ above), .fatal sound _⟩
  case inr.inr.inr.inl =>
    cases next
    exact ⟨_, State.outcome_of_rejected sound idle (Nat.succ_le_succ fetched) rejected, .decodeFault sound⟩
  case inr.inr.inr.inr =>
    rw [State.outcome_of_decoded sound idle (Nat.succ_le_succ fetched) decoded, next]
    rcases exec_next_cases next with ⟨-, rfl⟩ | ⟨e, -, rfl⟩
    · exact ⟨.ok, by rw [reportOf, fault_completed_closeLoad sound], .ok sound decoded next⟩
    · exact ⟨_, rfl, .fatal sound e⟩

/-- A fault that is there after the cycle and was not before is the one reported. -/
theorem Reports.eq_fatal {s t : State} {o : StepOutcome} (reports : Reports s t o) {f : FaultRecord}
    (sound : s.fault = none) (latched : t.fault = some f) : o = .fatal f.cause f.info := by
  cases reports with
  | fatal _ e =>
    cases latched
    rfl
  | halted | waiting | decodeFault => cases sound.symm.trans latched
  | ok => cases (fault_completed_closeLoad sound _).symm.trans latched

/-- Settles O11: one way of the cycle for each outcome, and the fault that is new is the one reported. -/
theorem reportedOutcomeIsWhatHappened : Obligations.ReportedOutcomeIsWhatHappened := by
  intro s t next
  obtain ⟨o, outcome, reports⟩ := State.execCycle_reports next
  simp only [outcome, Option.some.injEq]
  refine ⟨?ok, ?waiting, fun w => ?decodeFault, fun c n => ⟨?fatal, ?latched⟩, fun c => ?halted⟩
  case latched =>
    rintro ⟨sound, latched⟩
    exact reports.eq_fatal sound latched
  all_goals
    rintro rfl
    cases reports
  case ok.ok i sound decoded completes =>
    exact ⟨sound, fault_completed_closeLoad sound i, (completed_frame s.closeLoad i).dfc, i, decoded, completes⟩
  case waiting.waiting x sound waits => exact ⟨rfl, sound, x, waits⟩
  case decodeFault.decodeFault sound =>
    exact ⟨rfl, dfcIncrement_iterate Config.dfcWidth 1 s.dfc, rfl⟩
  case fatal.fatal sound e => exact ⟨sound, rfl⟩
  case halted.halted f latched => exact ⟨rfl, f, latched, rfl⟩

end Sys2Proof.Machine
end

section
/-! PROOFS. The host's `TICK`, `KEY` and `FLUSH` (R194 to R196; decisions D7, D15, D20, D28, D29). -/

namespace Sys2Proof.Machine

/-! ### `TICK` -/

theorem toNat_countDown (b : Byte) : (countDown b).toNat = b.toNat - 1 := by
  unfold countDown
  split
  · next zero => rw [zero]; rfl
  · next nonzero => bv_omega

/-- Settles O24: both timers count down by the same rule. -/
theorem tickCountsBothTimersDown : Obligations.TickCountsBothTimersDown :=
  fun s strobe => ⟨_, step_of_nextStrobe strobe, toNat_countDown s.dt, toNat_countDown s.st, rfl⟩

/-! ### `KEY` -/

/-- A key event sets the level of its key and of no other, whether it ends a wait or not. -/
theorem State.readKey_keyEvent (s : State) (k j : Nibble) (pressed : Bool) :
    (s.keyEvent k pressed).readKey j = if j = k then pressed else s.readKey j := by
  rcases s.keyEvent_cases k pressed with ⟨x, -, -, -, ends⟩ | ⟨-, ends⟩
  all_goals
    rw [ends]
    exact s.readKey_setKey k j pressed

/-- A key event without a transition during a wait sets the level and does nothing else (R195). -/
theorem State.keyEvent_of_noTransition {s : State} {k : Nibble} {pressed : Bool}
    (other : s.await = .none ∨ pressed = false ∨ s.readKey k = true) : s.keyEvent k pressed = s.setKey k pressed := by
  rcases s.keyEvent_cases k pressed with ⟨x, waits, rfl, up, -⟩ | ⟨-, ends⟩
  · simp [waits, up] at other
  · exact ends

/-- A key event writes `KEYS`, and for `Fx0A` `V`, `AWAIT` and `pc`. -/
theorem State.keyEvent_eq (s : State) (k : Nibble) (pressed : Bool) :
    s.keyEvent k pressed = { s with
      keys := (s.keyEvent k pressed).keys, v := (s.keyEvent k pressed).v,
      await := (s.keyEvent k pressed).await, pc := (s.keyEvent k pressed).pc } := by
  rcases s.keyEvent_cases k pressed with ⟨x, -, -, -, ends⟩ | ⟨-, ends⟩
  all_goals
    rw [ends]
    rfl

/-- Settles O25: a transition during a wait is the second half of `Fx0A`, every other event the level alone. -/
theorem keyEventSetsTheLevelAndMayEndTheWait : Obligations.KeyEventSetsTheLevelAndMayEndTheWait := by
  intro s k pressed strobe
  let u := s.setSchedule s.schedule.tail
  refine ⟨u.keyEvent k pressed, step_of_nextStrobe strobe, ?level, fun j other => ?others, ?transition, ?noTransition,
    u.keyEvent_eq k pressed⟩
  case level => rw [State.readKey_keyEvent, if_pos rfl]
  case others => rw [State.readKey_keyEvent, if_neg other, State.setSchedule_readKey]
  case transition =>
    rintro x waits rfl up
    rw [State.keyEvent_of_waiting (s := u) waits up]
    exact ⟨State.completeAwait_readV_self _ x k, fun r other => State.readV_setV_ne _ _ other, rfl, rfl⟩
  case noTransition =>
    intro other
    rw [State.keyEvent_of_noTransition (s := u) other]
    exact ⟨rfl, rfl, rfl⟩

/-! ### `FLUSH` -/

/-- The `disp` port is the rows of the display in one vector of 32 * 64 bits. -/
theorem State.dispPort_eq_flatten (s : State) : s.dispPort = s.disp.flatten.toList := by
  show _ = (s.disp.toArray.map Vector.toArray).flatten.toList
  rw [Array.toList_flatten, Array.toList_map, List.map_map]
  rfl

theorem State.length_dispPort (s : State) : s.dispPort.length = 2048 := by
  rw [State.dispPort_eq_flatten, Vector.length_toList]

/-- Bit `64 r + c` of the `disp` port is the pixel in row `r` and column `c` (decision D15). -/
theorem State.getElem?_dispPort (s : State) (r : Fin 32) (c : Fin 64) :
    s.dispPort[64 * r.val + c.val]? = some (pixel s.disp r c) := by
  have inside : 64 * r.val + c.val < 32 * 64 := by omega
  have row : (64 * r.val + c.val) / 64 = r.val := by omega
  have column : (64 * r.val + c.val) % 64 = c.val := by omega
  rw [State.dispPort_eq_flatten, Vector.getElem?_toList, Vector.getElem?_eq_getElem inside, Vector.getElem_flatten]
  simp [pixel, row, column]

/-- Settles O26: the frame is the `disp` port. -/
theorem flushCopiesTheFrameAndClearsDirty : Obligations.FlushCopiesTheFrameAndClearsDirty :=
  fun s =>
    ⟨step_of_nextStrobe,
    fun dirty => ⟨s.dispPort, if_pos dirty, s.length_dispPort, s.getElem?_dispPort⟩,
    fun clean => if_neg (Bool.eq_false_iff.mp clean)⟩

end Sys2Proof.Machine
end

section
/-! PROOFS. A host that keeps its duties (R213, decision D16): each strobe of a well-formed schedule is served, leaves
the schedule to the host, and opens or closes the `LOAD` window as the rest of the schedule expects. -/

namespace Sys2Proof.Machine

/-- A schedule that needs no open `LOAD` window keeps the host's duties in an open one too. -/
theorem scheduleWellFormed_of_closed {l : List Strobe} (h : scheduleWellFormed false l = true) (opened : Bool) :
    scheduleWellFormed opened l = true := by
  induction l with
  | nil => rfl
  | cons e rest ih =>
    cases e with
    | exec | reset => exact h
    | tick | key | flush => exact ih h
    | load => cases h

/-- The strobe the host issues next and the rest of its schedule keep its duties: the `step` of an empty schedule owes
nothing. -/
theorem scheduleWellFormed_nextStrobe {s : State} {opened : Bool} (h : scheduleWellFormed opened s.schedule = true) :
    scheduleWellFormed opened (s.nextStrobe :: s.schedule.tail) = true := by
  rw [State.nextStrobe]
  cases schedule : s.schedule with
  | nil => rfl
  | cons e rest => rwa [schedule] at h

/-- Any instruction but a `00EE` without a stack entry has a next state, and leaves the schedule to the host (R43). -/
theorem exists_exec_next {i : Instr} {s : State} (entry : i = .ret → s.sp.toNat ≤ 15) :
    ∃ t, exec i s = .next t ∧ t.schedule = s.schedule := by
  refine ⟨_, exec_eq i s entry, ?_⟩
  cases raises s i with
  | none => exact (completed_frame s i).schedule
  | some e => rfl

/-- An `EXEC` cycle has a next state while `SP` is in the range of R42 (b): the model's one stop is out of reach (log
entry 9). -/
theorem State.exists_execCycle_next {s : State} (sp : s.sp.toNat ≤ 15) :
    ∃ t, s.execCycle = .next t ∧ t.schedule = s.schedule := by
  rcases s.execCycle_cases with ⟨-, cycle⟩ | ⟨-, -, cycle⟩ | ⟨-, -, -, cycle⟩ | ⟨-, -, -, -, cycle⟩ |
      ⟨-, -, -, i, -, cycle⟩
  case inr.inr.inr.inr =>
    rw [cycle]
    exact exists_exec_next (s := s.closeLoad) fun _ => sp
  all_goals exact ⟨_, cycle, rfl⟩

/-- A `KEY` step leaves the rest of the schedule and the `LOAD` window alone (R195). -/
theorem State.keyEvent_schedule_loadOpen (s : State) (k : Nibble) (pressed : Bool) :
    (s.keyEvent k pressed).schedule = s.schedule ∧ (s.keyEvent k pressed).loadOpen = s.loadOpen := by
  rcases s.keyEvent_cases k pressed with ⟨x, -, -, -, ends⟩ | ⟨-, ends⟩
  all_goals
    rw [ends]
    exact ⟨rfl, rfl⟩

/-- A strobe that keeps the host's duties is served, and the strobes after it still keep them. -/
theorem exists_strobe_next {s : State} (sp : s.sp.toNat ≤ 15) {e : Strobe} {rest : List Strobe}
    (obedient : scheduleWellFormed s.loadOpen (e :: rest) = true) :
    ∃ t, s.strobe e = .next t ∧ t.schedule = s.schedule ∧ scheduleWellFormed t.loadOpen rest = true := by
  cases e with
  | exec =>
    obtain ⟨t, next, kept⟩ := State.exists_execCycle_next sp
    exact ⟨t, next, kept, scheduleWellFormed_of_closed obedient t.loadOpen⟩
  | load bytes =>
    simp only [scheduleWellFormed, Bool.and_eq_true] at obedient
    obtain ⟨⟨opened, fits⟩, closed⟩ := obedient
    exact ⟨_, State.loadImage_of_fits s opened (of_decide_eq_true fits), rfl, closed⟩
  | key k pressed =>
    obtain ⟨kept, window⟩ := s.keyEvent_schedule_loadOpen k pressed
    exact ⟨_, rfl, kept, by rw [window]; exact obedient⟩
  | tick | flush | reset => exact ⟨_, rfl, rfl, obedient⟩

/-- Settles O23: a step serves the next strobe, with the schedule moved on. -/
theorem anObedientHostIsNeverRefused : Obligations.AnObedientHostIsNeverRefused := by
  intro s inv obedient
  obtain ⟨t, next, kept, rest⟩ :=
    exists_strobe_next (s := s.setSchedule s.schedule.tail) inv.sp (scheduleWellFormed_nextStrobe obedient)
  refine ⟨t, next, ?_⟩
  rw [kept]
  exact rest

end Sys2Proof.Machine
end

section
/-! PROOFS. Zero memory (R95, R211, R220): the word 0 is no instruction, so a run over zeros is one decode fault after
another. -/

namespace Sys2Proof.Machine

/-- The word of two zero bytes is unrecognised: no row of R94 accepts it. -/
theorem decodeWord_zero : decodeWord 0 = .error (.unrecognised 0) := rfl

/-- One decode fault before the others counts as one more. -/
theorem dfcAfter_dfcIncrement (width : Option Nat) (n c : Nat) :
    dfcAfter width n (dfcIncrement width c) = dfcAfter width (n + 1) c := by
  rw [← dfcIncrement_iterate, ← dfcIncrement_iterate, Function.iterate_succ_apply]

/-- A step under the empty schedule, at two zero bytes, is a decode fault (R95, R181). -/
theorem step_of_zero_bytes {s : State} (sound : s.fault = none) (idle : s.await = .none) (empty : s.schedule = [])
    (fetched : s.pc.toNat + 1 ≤ 0xFFF) (hi : Memory.read s.mem s.pc.toNat = 0)
    (lo : Memory.read s.mem (s.pc.toNat + 1) = 0) : step s = .next s.closeLoad.decodeFault := by
  have strobe : s.nextStrobe = .exec := by rw [State.nextStrobe, empty]; rfl
  have word : s.wordAtPc = 0 := by rw [State.wordAtPc, hi, lo]; rfl
  have schedule : s.setSchedule s.schedule.tail = s := by rw [State.setSchedule, empty, List.tail_nil, ← empty]
  rw [step_of_fetched sound idle fetched strobe, schedule, word, State.execWord, decodeWord_zero]

/-- Settles O12, by induction on the number of strobes: the first is a decode fault, and the zeros go on from there. -/
theorem zeroMemoryIsWalkedThroughByDecodeFaults : Obligations.ZeroMemoryIsWalkedThroughByDecodeFaults := by
  intro n
  induction n with
  | zero => exact fun s _ _ _ _ _ => ⟨s, rfl, rfl, (dfcAfter_zero _ _).symm, rfl⟩
  | succ n ih =>
    intro s sound idle empty bound zeros
    have first : step s = .next s.closeLoad.decodeFault :=
      step_of_zero_bytes sound idle empty (by omega) (zeros _ (by omega) (by omega)) (zeros _ (by omega) (by omega))
    have pc : s.closeLoad.decodeFault.pc.toNat = s.pc.toNat + 2 := by
      show (s.pc + 2).toNat = s.pc.toNat + 2
      bv_omega
    obtain ⟨t, run, pc', dfc, frame⟩ :=
      ih s.closeLoad.decodeFault sound idle empty (by omega) fun a low high => zeros a (by omega) (by omega)
    refine ⟨t, (core_run_succ n first).trans run, by omega, ?count, frame⟩
    case count => rw [dfc, State.decodeFault_dfc, State.closeLoad_dfc, dfcAfter_dfcIncrement]

end Sys2Proof.Machine
end
